-- ==== Sys2Proof/Word.lean ====
section
/-! DEFINITION. The word types of the block (00_scope.md R9): u8, u16 and u32 are bit vectors, bit 0 the least
significant; `{a, b}` of the spec is `a ++ b`, and `v[hi:lo]` is `BitVec.extractLsb hi lo v`. -/

namespace Sys2Proof

/-- `u8` (R9): a byte of a buffer, of a UART stream or of the header. -/
abbrev Byte := BitVec 8

/-- `u16` (R9): the `length` field, the cursors `head` and `len`, the receiver's and the framer's counters. -/
abbrev Half := BitVec 16

/-- `u32` (R9): a command word, a response value, a CSR, a collaborator's status. -/
abbrev Word := BitVec 32

/-- A UART event word (R112): bits [9:8] KIND, bits [7:0] DATA. -/
abbrev EventWord := BitVec 10

end Sys2Proof
end

