-- ==== Sys2Proof/Config.lean ====
section
/-! DEFINITION. The implementation parameters of an instance (00_scope.md R6) and the model's one free value.
An instance's parameters stand in State as its field `cfg`, so that a claim over all states is a claim over all instances. -/

namespace Sys2Proof

/-- The parameters of R6, each with the reference sizing as its default. `HDR_LEN` is 4 and `Q_DEPTH` is `RX_POOL_N`
(neither is a parameter). `uartRxFifoDepth` is OPEN in R6 ("≥ 1, or unbounded"): `none` is unbounded. -/
structure Config where
  /-- `RX_POOL_N`: buffers in the receive pool. -/
  rxPoolN : Nat := 8
  /-- `TX_POOL_N`: buffers in the transmit pool. -/
  txPoolN : Nat := 2
  /-- `RX_BUF_CAP`: bytes in each receive buffer. -/
  rxBufCap : Nat := 384
  /-- `TX_BUF_CAP`: bytes in each transmit buffer. -/
  txBufCap : Nat := 384
  /-- `N_CMD_PORTS`: command ports. -/
  nCmdPorts : Nat := 2
  /-- `UART_RX_FIFO_DEPTH`: bytes the UART's receive FIFO holds. -/
  uartRxFifoDepth : Option Nat := none
  deriving DecidableEq, Repr

/-- The instance of the reference sizing (R6, column "default"). The OPEN depth is unbounded here. DESIGN CHOICE, log 3: unsafe. -/
def Config.default : Config := { }

/-- `HDR_LEN` (R6): the header's length in bytes, fixed. -/
def Config.hdrLen : Nat := 4

/-- The constraints of R6 on the parameters. -/
abbrev Config.Valid (c : Config) : Prop :=
  (1 ≤ c.rxPoolN ∧ c.rxPoolN ≤ 32) ∧ (1 ≤ c.txPoolN ∧ c.txPoolN ≤ 32) ∧
  (1 ≤ c.rxBufCap ∧ c.rxBufCap ≤ 65535) ∧ (4 ≤ c.txBufCap ∧ c.txBufCap ≤ 65535) ∧
  (1 ≤ c.nCmdPorts ∧ c.nCmdPorts ≤ 255) ∧ (∀ d ∈ c.uartRxFifoDepth, 1 ≤ d)

/-- FREE VALUE (R59, 93_implementation_defined.md U5: "any value, one draw per byte"): the byte that buffer `buffer` of
pool `pool` (0 receive, 1 transmit) holds at offset `offset` after reset number `draw`, before anything is written there.
Log 1: safe, nothing is known of it. -/
opaque Config.freeByte (draw pool buffer offset : Nat) : Byte

end Sys2Proof
end

