-- ==== Sys2Proof/Syntax.lean ====
section
/-! DEFINITION. The instructions of the block (00_scope.md R2): the twelve commands of 30_encoding.md R102 and the three
UART events of R112, one constructor per row of spec/opcode_table.json. Operands that the rules count with (index, reserve,
count, offset, CSR number) are natural numbers, bounded by WellFormed; a data byte is a byte. -/

namespace Sys2Proof

/-- A pool select (R27, R101): the receive pool (P = 0) or the transmit pool (P = 1). -/
inductive Pool where
  | rx
  | tx
  deriving DecidableEq, Repr

/-- What the block performs: a command (R102) or a UART event (R112). -/
inductive Instr where
  /-- `NOP` (44_control.md R260). -/
  | nop
  /-- `ALLOC pool, r` (40_pool.md R131): `r` reserve bytes. -/
  | alloc (pool : Pool) (r : Nat)
  /-- `RELEASE pool, i` (R132). -/
  | release (pool : Pool) (i : Nat)
  /-- `BUF_ADD pool, i, b` (R133). -/
  | bufAdd (pool : Pool) (i : Nat) (b : Byte)
  /-- `BUF_PULL pool, i, n` (R134). -/
  | bufPull (pool : Pool) (i : Nat) (n : Nat)
  /-- `BUF_RD pool, i, o` (R135). -/
  | bufRd (pool : Pool) (i : Nat) (o : Nat)
  /-- `BUF_INFO pool, i` (R136). -/
  | bufInfo (pool : Pool) (i : Nat)
  /-- `BUF_HDR pool, i` (R137): P = 1 is a word too, and faults WRONG_POOL. -/
  | bufHdr (pool : Pool) (i : Nat)
  /-- `DEQ` (43_queue.md R241). -/
  | deq
  /-- `TX pool, i` (42_transmit.md R210): P = 0 is a word too, and faults WRONG_POOL. -/
  | tx (pool : Pool) (i : Nat)
  /-- `INIT` (44_control.md R261). -/
  | init
  /-- `CSR_RD csr` (R267). -/
  | csrRd (csr : Nat)
  /-- The event SPURIOUS (41_receiver.md R182). -/
  | spurious
  /-- The event RX_BYTE (R170); `data` is the event word's DATA, the byte. -/
  | rxByte (data : Byte)
  /-- The event TX_READY (R181). -/
  | txReady
  deriving DecidableEq, Repr

/-- Where an instruction's bits travel: a 32-bit word on a command port (R100), or a 10-bit UART event word (R112). -/
inductive Wire where
  | command (w : Word)
  | event (w : EventWord)
  deriving DecidableEq, Repr

end Sys2Proof
end

