-- ==== Sys2Proof/Machine/State.lean ====
section
/-! DEFINITION. The state of the block and of its environment (10_state.md R20), as plain data, with its value at reset
(R59), and the reasons a step can stop. A fault of the block (60_exceptions.md R302) is none of these: it is a next state. -/

namespace Sys2Proof.Machine

/-- `rx_state` (R22). Its fourth encoding, 3, is never written and has no constructor. DESIGN CHOICE, log 10: safe. -/
inductive RxState where
  | awaitHdr
  | awaitPayload
  | discard
  deriving DecidableEq, Repr

/-- `owner` (R28). The encodings 5 to 7 are never written and have no constructor. DESIGN CHOICE, log 10: safe. -/
inductive Owner where
  | free
  | receiver
  | queue
  | client
  | transmitter
  deriving DecidableEq, Repr

/-- `init_phase` (R33). -/
inductive InitPhase where
  | uninit
  | disabling
  | enabling
  | ready
  deriving DecidableEq, Repr

/-- `port_state[k]` (R32). `HOLD_TX(cmd)` keeps the command's IDX, the only part of a held TX that is not fixed
(P = 1 and IMM = 0 have been checked). DESIGN CHOICE, log 17: safe. -/
inductive PortState where
  | idle
  | holdDeq
  | holdTx (i : Nat)
  | txWait
  | initDisable
  | initEnable
  deriving DecidableEq, Repr

/-- A buffer's bytes that have been written since reset, as (offset, byte) pairs with offsets strictly rising. -/
abbrev Memory := List Host.Cell

/-- `buf(p, i)` (R27). -/
structure Buffer where
  /-- who owns the buffer -/
  owner : Owner
  /-- the offset of the first used byte -/
  head : Half
  /-- the used length -/
  len : Half
  /-- the `channel` latched by the receiver -/
  chan : Byte
  /-- the `source_id` latched by the receiver -/
  src : Byte
  /-- the byte region: the bytes written since reset -/
  data : Memory
  deriving DecidableEq, Repr

/-- A buffer after reset (R59): FREE, every field 0, no byte written. -/
def Buffer.reset : Buffer :=
  { owner := .free, head := 0#16, len := 0#16, chan := 0#8, src := 0#8, data := [] }

/-- `hdr_buf[0..3]` (R24), the header accumulation buffer. -/
structure HdrBuf where
  b0 : Byte
  b1 : Byte
  b2 : Byte
  b3 : Byte
  deriving DecidableEq, Repr

/-- One command port (R32): its state and its last response. -/
structure Port where
  state : PortState
  /-- `rsp_code[k]` -/
  rspCode : BitVec 8
  /-- `rsp_value[k]` -/
  rspValue : Word
  deriving DecidableEq, Repr

/-- A port after reset (R59). -/
def Port.reset : Port := { state := .idle, rspCode := 0#8, rspValue := 0#32 }

/-- One record of the diagnostic output (R35, 60_exceptions.md R312). -/
structure Diag where
  code : BitVec 8
  len : Half
  deriving DecidableEq, Repr

/-- One step of one agent, or one move of the environment (00_scope.md R8), with the inputs it draws (R12). -/
inductive Action where
  /-- a client places a command word on a port (30_encoding.md R107) -/
  | command (port : Nat) (w : Word)
  /-- a UART event is delivered to the receiver (R112) -/
  | event (w : EventWord)
  /-- a port with a held command tries it again (43_queue.md R242, 42_transmit.md R214) -/
  | port (k : Nat)
  /-- a framer step, with its draw of `uart_tx_ready` (42_transmit.md R213) -/
  | framer (ready : Bool)
  /-- the collaborator answers its outstanding call with a status (44_control.md R262) -/
  | answer (status : Word)
  /-- a byte arrives at the UART (70_reset_and_hazards.md R361) -/
  | arrive (b : Byte)
  /-- the environment sets `uart_bound` (R360) -/
  | bind (bound : Bool)
  /-- the block is reset (R340) -/
  | reset
  deriving DecidableEq, Repr

/-- The state. -/
structure State where
  /-- `rx_en` (R21) -/
  rxEn : Bool
  /-- `rx_state` (R22) -/
  rxState : RxState
  /-- `hdr_cnt` (R23) -/
  hdrCnt : BitVec 2
  /-- `hdr_buf` (R24) -/
  hdrBuf : HdrBuf
  /-- `rx_remaining` (R25) -/
  rxRemaining : Half
  /-- `rx_buf_idx` (R26) -/
  rxBufIdx : BitVec 5
  /-- the receive pool (R27) -/
  rxPool : List Buffer
  /-- the transmit pool (R27) -/
  txPool : List Buffer
  /-- the dispatch FIFO, oldest first (R30) -/
  q : List (BitVec 5)
  /-- `tx_busy` (R31) -/
  txBusy : Bool
  /-- `tx_idx` (R31) -/
  txIdx : BitVec 5
  /-- `tx_pos` (R31) -/
  txPos : Half
  /-- `tx_port` (R31) -/
  txPort : BitVec 8
  /-- the command ports (R32) -/
  ports : List Port
  /-- `init_phase` (R33) -/
  initPhase : InitPhase
  /-- `fault_valid` (R34) -/
  faultValid : Bool
  /-- `fault_cause` (R34) -/
  faultCause : BitVec 8
  /-- `diag_log` (R35) -/
  diagLog : List Diag
  /-- environment: `uart_rx`, oldest first (R44) -/
  uartRx : List Byte
  /-- environment: `uart_tx` (R44) -/
  uartTx : List Byte
  /-- environment: `uart_bound` (R12) -/
  uartBound : Bool
  /-- the parameters of the instance (R6); no step changes them -/
  cfg : Config
  /-- the model's own: the port on which the command in hand was placed (log 2) -/
  cmdPort : Nat
  /-- the model's own: how many resets have drawn the buffers' bytes (log 1) -/
  drawGen : Nat
  /-- the model's own: which agent moves next, and with which inputs (log 2) -/
  schedule : List Action
  deriving DecidableEq, Repr

/-- A block of the given parameters just after reset (R59), with nothing waiting at the UART, nothing sent, the UART bound
and nobody scheduled. DESIGN CHOICE, log 4: unsafe, the environment's three values are not the spec's; log 19: the model's own
three fields. -/
def State.fresh (c : Config) : State :=
  { rxEn := false, rxState := .awaitHdr, hdrCnt := 0#2, hdrBuf := ⟨0#8, 0#8, 0#8, 0#8⟩, rxRemaining := 0#16, rxBufIdx := 0#5
    rxPool := List.replicate c.rxPoolN Buffer.reset, txPool := List.replicate c.txPoolN Buffer.reset
    q := [], txBusy := false, txIdx := 0#5, txPos := 0#16, txPort := 0#8
    ports := List.replicate c.nCmdPorts Port.reset, initPhase := .uninit
    faultValid := false, faultCause := 0#8, diagLog := []
    uartRx := [], uartTx := [], uartBound := true
    cfg := c, cmdPort := 0, drawGen := 0, schedule := [] }

/-- The machine right after reset: an instance of the reference sizing (R6, R59). -/
def State.reset : State := State.fresh Config.default

/-- The reasons the MODEL stops with a fault: a rule's precondition does not hold, which the spec derives to be impossible
in every state reachable from reset (10_state.md R54 to R57, 20_memory.md R62). DESIGN CHOICE, log 9: each is safe. -/
inductive Fault where
  /-- Raised by the receiver, the framer, DEQ and a held TX where the index they hold names no buffer of the pool (R54 to R56
  exclude it). Safe. -/
  | noSuchBuffer
  /-- Raised by BufRead and BufWrite for an offset that is not below CAP_p ("Both require `j < CAP_p`", R62; R57 excludes it).
  Safe. -/
  | bufferAccess
  /-- Raised by the receiver where `rx_remaining` is 0 in AWAIT_PAYLOAD or DISCARD (">= 1 before, no wrap", 41_receiver.md R178
  and R180; R57 excludes it). Safe. -/
  | counterUnderflow
  deriving DecidableEq, Repr

/-- The reasons the MODEL refuses a step. -/
inductive Refusal where
  /-- Raised by an arm of exec that has no meaning yet. Safe. -/
  | notModelled (mnemonic : String)
  /-- Raised by the fetch for a command on a port the instance does not have (R8: ports 0 to N_CMD_PORTS - 1). Safe. -/
  | noSuchPort
  /-- Raised by the fetch for a command on a port that is not IDLE ("a client may place a command on port `k` only when
  `port_state[k] = IDLE`", 30_encoding.md R107). Safe. -/
  | portNotIdle
  /-- Raised by the fetch for an event word that R112 gives no event ("a model that meets one refuses it"). Safe. -/
  | reservedEvent
  /-- Raised by an answer of the collaborator when no call is outstanding (70_reset_and_hazards.md R360: "answer each call
  once"); a late answer to a call outstanding at a reset is one, where no INIT since waits (log 23). Safe. -/
  | answerWithoutCall
  deriving DecidableEq, Repr

/-- The outcome of a step of this machine. -/
abbrev Out := Host.Outcome State Fault Refusal

end Sys2Proof.Machine
end

