-- ==== Sys2Proof/Machine/Ops.lean ====
section
/-! DEFINITION. The named operations over the buffers' bytes, the buffer pools, the ports, the FIFO and the UART streams
(00_scope.md R10), and the raising of a fault (60_exceptions.md R304, R305). The block has no trap entry and no return from
one (R324, R325): raising a fault is all there is. -/

namespace Sys2Proof.Machine

/-! ### A buffer's byte region -/

/-- The offsets rise strictly: the one canonical form. -/
abbrev Memory.wf (m : Memory) : Prop := m.Pairwise (fun x y => x.1 < y.1)

/-- The byte written at an offset since reset; an offset that is not listed reads as no value. -/
def Memory.read : Memory → Nat → Option Byte
  | [], _ => none
  | (k, v) :: m, a => if k = a then some v else Memory.read m a

/-- Write one byte, keeping the offsets rising. -/
def Memory.write : Memory → Nat → Byte → Memory
  | [], a, b => [(a, b)]
  | (k, v) :: m, a, b =>
    if a < k then (a, b) :: (k, v) :: m
    else if a = k then (a, b) :: m
    else (k, v) :: Memory.write m a b

/-! ### Pools and buffers -/

/-- The number of the pool's kind, an argument of the free byte. -/
def poolNumber : Pool → Nat
  | .rx => 0
  | .tx => 1

/-- `N_p` (40_pool.md). -/
def State.poolN (s : State) : Pool → Nat
  | .rx => s.cfg.rxPoolN
  | .tx => s.cfg.txPoolN

/-- `CAP_p` (40_pool.md). -/
def State.cap (s : State) : Pool → Nat
  | .rx => s.cfg.rxBufCap
  | .tx => s.cfg.txBufCap

/-- The buffers of a pool. -/
def State.pool (s : State) : Pool → List Buffer
  | .rx => s.rxPool
  | .tx => s.txPool

/-- Replace the buffers of a pool. -/
def State.setPool (s : State) (p : Pool) (bs : List Buffer) : State :=
  match p with
  | .rx => { s with rxPool := bs }
  | .tx => { s with txPool := bs }

/-- `buf(p, i)`, for `i < N_p` (10_state.md R27); no other buffer exists. -/
def State.buf? (s : State) (p : Pool) (i : Nat) : Option Buffer :=
  if i < s.poolN p then (s.pool p)[i]? else none

/-- Change the fields of `buf(p, i)`. -/
def State.updBuf (s : State) (p : Pool) (i : Nat) (f : Buffer → Buffer) : State :=
  s.setPool p ((s.pool p).modify i f)

/-- `buf(p, i).owner <- o`. -/
def State.setOwner (s : State) (p : Pool) (i : Nat) (o : Owner) : State :=
  s.updBuf p i (fun b => { b with owner := o })

/-- What a byte of buffer space holds that nothing has written since reset (R59: "unspecified"). Log 1: a free value. -/
def State.unwritten (s : State) (p : Pool) (i j : Nat) : Byte :=
  Config.freeByte s.drawGen (poolNumber p) i j

/-- `BufRead(p, i, j)` (20_memory.md R62); `none` outside buffer space (R60). -/
def State.bufRead? (s : State) (p : Pool) (i j : Nat) : Option Byte :=
  match s.buf? p i with
  | none => none
  | some b => if j < s.cap p then some ((b.data.read j).getD (s.unwritten p i j)) else none

/-- `BufWrite(p, i, j, v)` (R62); `none` outside buffer space (R60). -/
def State.bufWrite? (s : State) (p : Pool) (i j : Nat) (v : Byte) : Option State :=
  match s.buf? p i with
  | none => none
  | some _ =>
    if j < s.cap p then some (s.updBuf p i (fun b => { b with data := b.data.write j v })) else none

/-- BufWrite of successive bytes, each a BufWrite of its own. -/
def State.bufWrites? (s : State) (p : Pool) (i j : Nat) : List Byte → Option State
  | [] => some s
  | v :: vs =>
    match s.bufWrite? p i j v with
    | none => none
    | some t => t.bufWrites? p i (j + 1) vs

/-- `free_p[i]` (R29): buffer `i` exists and is FREE. -/
def State.isFree (s : State) (p : Pool) (i : Nat) : Bool :=
  match s.buf? p i with
  | none => false
  | some b => b.owner = .free

/-- The lowest free index (R29, 40_pool.md R130), if any buffer is free. -/
def State.firstFree? (s : State) (p : Pool) : Option Nat :=
  (List.range (s.poolN p)).find? (s.isFree p)

/-- What PoolAlloc leaves of a buffer (R130): the data is not cleared. -/
def Buffer.allocated (r : Nat) (o : Owner) (b : Buffer) : Buffer :=
  { b with owner := o, head := BitVec.ofNat 16 r, len := 0#16, chan := 0#8, src := 0#8 }

/-- `PoolAlloc(p, r, o)` (R130): the index and the state after, or `none` for EXHAUSTED (no state change). -/
def State.poolAlloc? (s : State) (p : Pool) (r : Nat) (o : Owner) : Option (Nat × State) :=
  match s.firstFree? p with
  | none => none
  | some i => some (i, s.updBuf p i (Buffer.allocated r o))

/-- `BufPush(p, i, n)` (R138); the caller has checked `head ≥ n`. -/
def State.bufPush (s : State) (p : Pool) (i n : Nat) : State :=
  s.updBuf p i (fun b => { b with head := b.head - BitVec.ofNat 16 n, len := b.len + BitVec.ofNat 16 n })

/-! ### Byte order and the header -/

/-- `le16(b0, b1) = b0 + 256 * b1` (R10, 30_encoding.md R91). -/
def le16 (b0 b1 : Byte) : Half := b1 ++ b0

/-- `L[7:0]` (R65). -/
def lowByte (l : Half) : Byte := l.extractLsb 7 0

/-- `L[15:8]` (R65). -/
def highByte (l : Half) : Byte := l.extractLsb 15 8

/-- The four header bytes (R90): length least significant byte first, channel, source. -/
def headerBytes (l : Half) (chan src : Byte) : List Byte := [lowByte l, highByte l, chan, src]

/-- The frame of a payload (R90): `F = [L[7:0], L[15:8], c, s] ++ P`. -/
def frameBytes (chan src : Byte) (payload : List Byte) : List Byte :=
  headerBytes (BitVec.ofNat 16 payload.length) chan src ++ payload

/-! ### Ports, responses and faults -/

/-- Port `k`, for `k < N_CMD_PORTS` (R8). -/
def State.port? (s : State) (k : Nat) : Option Port :=
  if k < s.cfg.nCmdPorts then s.ports[k]? else none

/-- Change the registers of port `k`; nothing, where there is no such port. DEDUCED, log 22: safe. -/
def State.updPort (s : State) (k : Nat) (f : Port → Port) : State :=
  { s with ports := s.ports.modify k f }

/-- `port_state[k] <- x`. -/
def State.setPortState (s : State) (k : Nat) (x : PortState) : State :=
  s.updPort k (fun p => { p with state := x })

/-- The response codes that are no faults (60_exceptions.md R301). -/
inductive Code where
  | ok
  | exhausted
  | devStatus
  | bindFail
  deriving DecidableEq, Repr

/-- The codes' values (30_encoding.md R106). -/
def Code.byte : Code → BitVec 8
  | .ok => 0x00#8
  | .exhausted => 0x01#8
  | .devStatus => 0x02#8
  | .bindFail => 0x03#8

/-- The fault codes (60_exceptions.md R302), in the order of their checks (R303). -/
inductive Cause where
  | illegalOpcode
  | reservedNonzero
  | wrongPort
  | wrongPool
  | invalidId
  | doubleRelease
  | notOwned
  | badReserve
  | noHeadroom
  | bufOverflow
  | bufUnderflow
  | outOfRange
  | illegalCsr
  | alreadyInit
  deriving DecidableEq, Repr

/-- The fault codes' values (30_encoding.md R106). -/
def Cause.byte : Cause → BitVec 8
  | .illegalOpcode => 0x10#8
  | .reservedNonzero => 0x11#8
  | .wrongPort => 0x12#8
  | .wrongPool => 0x13#8
  | .invalidId => 0x14#8
  | .doubleRelease => 0x15#8
  | .notOwned => 0x16#8
  | .badReserve => 0x17#8
  | .noHeadroom => 0x18#8
  | .bufOverflow => 0x19#8
  | .bufUnderflow => 0x1A#8
  | .outOfRange => 0x1B#8
  | .illegalCsr => 0x1C#8
  | .alreadyInit => 0x1D#8

/-- Write the response registers of port `k`. -/
def State.setResponse (s : State) (k : Nat) (code : BitVec 8) (value : Word) : State :=
  s.updPort k (fun p => { p with rspCode := code, rspValue := value })

/-- `respond(k, code, value)` with a code that is no fault (R10, R105). -/
def State.respond (s : State) (k : Nat) (code : Code) (value : Word) : State :=
  s.setResponse k code.byte value

/-- The FAULT register's update in the step of any fault (60_exceptions.md R305): the first cause stays. -/
def State.recordFault (s : State) (c : Cause) : State :=
  if s.faultValid then s else { s with faultValid := true, faultCause := c.byte }

/-- `raise Fault(cause)` of the command on port `k` (R10, R304, R305): the ONE way a fault is taken. The command has performed
nothing; it completes with the cause as its response, value 0, and the FAULT register keeps the first cause. -/
def State.raise (s : State) (k : Nat) (c : Cause) : State :=
  (s.setResponse k c.byte 0#32).recordFault c

/-! ### The FIFO, the UART streams and the diagnostic output -/

/-- `QPush(i)` (43_queue.md R240). The index fits 5 bits in a legal instance. DEDUCED, log 16: safe. -/
def State.qPush (s : State) (i : Nat) : State :=
  { s with q := s.q ++ [BitVec.ofNat 5 i] }

/-- `UartTxPut(b)` (R10). -/
def State.uartTxPut (s : State) (b : Byte) : State :=
  { s with uartTx := s.uartTx ++ [b] }

/-- The causes of a dropped frame (60_exceptions.md R310, R311). -/
inductive Drop where
  | exhausted
  | oversized
  deriving DecidableEq, Repr

/-- The diagnostic codes (R312). -/
def Drop.byte : Drop → BitVec 8
  | .exhausted => 1#8
  | .oversized => 2#8

/-- `diag(code, len)` (R10, R312). -/
def State.diag (s : State) (d : Drop) (len : Half) : State :=
  { s with diagLog := s.diagLog ++ [{ code := d.byte, len := len }] }

end Sys2Proof.Machine
end

