-- ==== Sys2Proof/Machine/Flags.lean ====
section
/-! DEFINITION. The status flags (10_state.md R47) and the 15 read-only CSRs, each a view of the state (R36 to R43). The block
has no arithmetic condition codes. -/

namespace Sys2Proof.Machine

/-- The encoding of `rx_state` (R22). -/
def RxState.bits : RxState → BitVec 2
  | .awaitHdr => 0#2
  | .awaitPayload => 1#2
  | .discard => 2#2

/-- The encoding of `owner` (R28). -/
def Owner.bits : Owner → BitVec 3
  | .free => 0#3
  | .receiver => 1#3
  | .queue => 2#3
  | .client => 3#3
  | .transmitter => 4#3

/-- The encoding of `init_phase` (R33). -/
def InitPhase.bits : InitPhase → BitVec 2
  | .uninit => 0#2
  | .disabling => 1#2
  | .enabling => 2#2
  | .ready => 3#2

/-- The receive-data-ready interrupt (60_exceptions.md R320): enabled by `rx_en`, pending while bytes wait. -/
def State.rxPending (s : State) : Bool := s.rxEn && !s.uartRx.isEmpty

/-- Bits 0 to n-1 of a pool's free map (R41): bit i is 1 if buffer i exists and is FREE. -/
def State.freeMapBits (s : State) (p : Pool) : (n : Nat) → BitVec n
  | 0 => 0#0
  | n + 1 => BitVec.cons (s.isFree p n) (s.freeMapBits p n)

/-- CSR 0x06 or 0x07 (R41). -/
def State.freeMap (s : State) (p : Pool) : Word := s.freeMapBits p 32

/-- The oldest entry of the FIFO, or 0 (R42). -/
def State.qHead (s : State) : BitVec 5 := s.q.head?.getD 0#5

/-- The length of the frame being sent, header included, or 0 (R42). -/
def State.txLen (s : State) : Half :=
  if s.txBusy then
    match s.buf? .tx s.txIdx.toNat with
    | none => 0#16
    | some b => b.len
  else 0#16

/-- The CSRs by number (R36); `none` for the reserved numbers. -/
def State.csr? (s : State) : Nat → Option Word
  | 0x00 => some (0#29 ++ s.initPhase.bits ++ BitVec.ofBool s.rxEn)
  | 0x01 => some (0#28 ++ s.hdrCnt ++ s.rxState.bits)
  | 0x02 => some (0#16 ++ s.rxRemaining)
  | 0x03 => some (0#16 ++ le16 s.hdrBuf.b0 s.hdrBuf.b1)
  | 0x04 => some (0#16 ++ s.hdrBuf.b3 ++ s.hdrBuf.b2)
  | 0x05 => some (BitVec.ofBool (s.rxState = .awaitPayload) ++ 0#26 ++ s.rxBufIdx)
  | 0x06 => some (s.freeMap .rx)
  | 0x07 => some (s.freeMap .tx)
  | 0x08 => some (0#26 ++ BitVec.ofNat 6 s.q.length)
  | 0x09 => some (BitVec.ofBool (!s.q.isEmpty) ++ 0#26 ++ s.qHead)
  | 0x0A => some (0#8 ++ s.txPort ++ 0#3 ++ s.txIdx ++ 0#7 ++ BitVec.ofBool s.txBusy)
  | 0x0B => some (s.txLen ++ s.txPos)
  | 0x0C => some (0#23 ++ BitVec.ofBool s.faultValid ++ s.faultCause)
  | 0x0D => some (BitVec.ofNat 8 Config.hdrLen ++ BitVec.ofNat 8 s.cfg.nCmdPorts ++ BitVec.ofNat 8 s.cfg.txPoolN ++
      BitVec.ofNat 8 s.cfg.rxPoolN)
  | 0x0E => some (BitVec.ofNat 16 s.cfg.txBufCap ++ BitVec.ofNat 16 s.cfg.rxBufCap)
  | _ => none

end Sys2Proof.Machine
end

