-- ==== Sys2Proof/Machine/Control.lean ====
section
/-! DEFINITION. The control commands (44_control.md): NOP, INIT and CSR_RD, and the later parts of INIT, performed when the
collaborator answers. -/

namespace Sys2Proof.Machine

/-- `NOP` (R260). -/
def execNop (s : State) : Out := .next (s.respond s.cmdPort .ok 0#32)

/-- `INIT` part 1 (R261). The call of `disable()` is outstanding while a port is in INIT_DISABLE (R262). -/
def execInit (s : State) : Out :=
  if s.initPhase ≠ .uninit then .next (s.raise s.cmdPort .alreadyInit)
  else if s.uartBound = false then .next (s.respond s.cmdPort .bindFail 0#32)
  else .next (({ s with initPhase := .disabling }).setPortState s.cmdPort .initDisable)

/-- `INIT` part 2 (R263), in the step `disable()` answers `x`, for the port `k` in INIT_DISABLE. -/
def initDisabled (k : Nat) (x : Word) (s : State) : State :=
  if x ≠ 0#32 then ((({ s with initPhase := .uninit }).setPortState k .idle).respond k .devStatus x)
  else ({ s with uartRx := [], rxEn := true, initPhase := .enabling }).setPortState k .initEnable

/-- `INIT` part 3 (R264), in the step `enable()` answers `x`, for the port `k` in INIT_ENABLE. -/
def initEnabled (k : Nat) (x : Word) (s : State) : State :=
  let t := ({ s with initPhase := .ready }).setPortState k .idle
  if x = 0#32 then t.respond k .ok 0#32 else t.respond k .devStatus x

/-- `CSR_RD csr` (R267). -/
def execCsrRd (c : Nat) (s : State) : Out :=
  match s.csr? c with
  | none => .next (s.raise s.cmdPort .illegalCsr)
  | some v => .next (s.respond s.cmdPort .ok v)

end Sys2Proof.Machine
end

