-- ==== Sys2Proof/Machine/Operands.lean ====
section
/-! DEFINITION. The operand checks shared by the commands. The operand forms themselves are the decoder's (30_encoding.md
R101): a pool, an index and a zero-extended immediate. -/

namespace Sys2Proof.Machine

/-- `CheckBuf(k, p, i, onFree)` (40_pool.md R139): only a CLIENT-owned buffer may be touched by a command. -/
def checkBuf (s : State) (p : Pool) (i : Nat) (onFree : Cause) : Except Cause Buffer :=
  match s.buf? p i with
  | none => .error .invalidId
  | some b =>
    if b.owner = .free then .error onFree
    else if b.owner ≠ .client then .error .notOwned
    else .ok b

end Sys2Proof.Machine
end

