-- ==== Sys2Proof/Machine/PoolCommands.lean ====
section
/-! DEFINITION. The buffer pool commands (40_pool.md): ALLOC, RELEASE, BUF_ADD, BUF_PULL, BUF_RD, BUF_INFO, BUF_HDR. Each
completes in the step it is performed (R140), on the port `cmdPort`. -/

namespace Sys2Proof.Machine

/-- `ALLOC pool, r` (R131). -/
def execAlloc (p : Pool) (r : Nat) (s : State) : Out :=
  if s.cap p < r then .next (s.raise s.cmdPort .badReserve)
  else
    match s.poolAlloc? p r .client with
    | none => .next (s.respond s.cmdPort .exhausted 0#32)
    | some (i, t) => .next (t.respond s.cmdPort .ok (BitVec.ofNat 32 i))

/-- `RELEASE pool, i` (R132). -/
def execRelease (p : Pool) (i : Nat) (s : State) : Out :=
  match checkBuf s p i .doubleRelease with
  | .error c => .next (s.raise s.cmdPort c)
  | .ok _ => .next ((s.setOwner p i .free).respond s.cmdPort .ok 0#32)

/-- `BUF_ADD pool, i, b` (R133): the tail cursor is exact, "u17 arithmetic, no wrap". -/
def execBufAdd (p : Pool) (i : Nat) (v : Byte) (s : State) : Out :=
  match checkBuf s p i .notOwned with
  | .error c => .next (s.raise s.cmdPort c)
  | .ok b =>
    let tail := b.head.toNat + b.len.toNat
    if s.cap p ≤ tail then .next (s.raise s.cmdPort .bufOverflow)
    else
      match s.bufWrite? p i tail v with
      | none => .fault .bufferAccess
      | some t => .next ((t.updBuf p i (fun b => { b with len := b.len + 1#16 })).respond s.cmdPort .ok 0#32)

/-- `BUF_PULL pool, i, n` (R134). The sum wraps in no state with head + len ≤ CAP_p. DEDUCED, log 15: safe. -/
def execBufPull (p : Pool) (i n : Nat) (s : State) : Out :=
  match checkBuf s p i .notOwned with
  | .error c => .next (s.raise s.cmdPort c)
  | .ok b =>
    if b.len.toNat < n then .next (s.raise s.cmdPort .bufUnderflow)
    else
      .next ((s.updBuf p i
        (fun b => { b with head := b.head + BitVec.ofNat 16 n, len := b.len - BitVec.ofNat 16 n })).respond s.cmdPort .ok 0#32)

/-- `BUF_RD pool, i, o` (R135). -/
def execBufRd (p : Pool) (i o : Nat) (s : State) : Out :=
  match checkBuf s p i .notOwned with
  | .error c => .next (s.raise s.cmdPort c)
  | .ok b =>
    if b.len.toNat ≤ o then .next (s.raise s.cmdPort .outOfRange)
    else
      match s.bufRead? p i (b.head.toNat + o) with
      | none => .fault .bufferAccess
      | some v => .next (s.respond s.cmdPort .ok (v.setWidth 32))

/-- `BUF_INFO pool, i` (R136). -/
def execBufInfo (p : Pool) (i : Nat) (s : State) : Out :=
  match checkBuf s p i .notOwned with
  | .error c => .next (s.raise s.cmdPort c)
  | .ok b => .next (s.respond s.cmdPort .ok (b.head ++ b.len))

/-- `BUF_HDR pool, i` (R137): the pool is checked before the buffer (60_exceptions.md R303). -/
def execBufHdr (p : Pool) (i : Nat) (s : State) : Out :=
  if p ≠ .rx then .next (s.raise s.cmdPort .wrongPool)
  else
    match checkBuf s .rx i .notOwned with
    | .error c => .next (s.raise s.cmdPort c)
    | .ok b => .next (s.respond s.cmdPort .ok (0#16 ++ b.src ++ b.chan))

end Sys2Proof.Machine
end

