-- ==== Sys2Proof/Machine/Queue.lean ====
section
/-! DEFINITION. The dispatch queue's consumer side (43_queue.md): DEQ. -/

namespace Sys2Proof.Machine

/-- `DeqComplete` (R242), for the FIFO's oldest entry `i` and the rest `q`. -/
def deqComplete (i : BitVec 5) (q : List (BitVec 5)) (s : State) : Out :=
  match s.buf? .rx i.toNat with
  | none => .fault .noSuchBuffer
  | some _ =>
    .next (((({ s with q := q }).setOwner .rx i.toNat .client).setPortState 0 .idle).respond 0 .ok (i.setWidth 32))

/-- `DEQ` (R241): port 0 only; it holds while the FIFO is empty. -/
def execDeq (s : State) : Out :=
  if s.cmdPort ≠ 0 then .next (s.raise s.cmdPort .wrongPort)
  else
    match s.q with
    | [] => .next (s.setPortState 0 .holdDeq)
    | i :: q => deqComplete i q s

end Sys2Proof.Machine
end

