-- ==== Sys2Proof/Machine/Receiver.lean ====
section
/-! DEFINITION. The frame receiver (41_receiver.md): the events RX_BYTE, TX_READY and SPURIOUS. The receiver never faults the
block: no byte value and no header value is illegal to it. -/

namespace Sys2Proof.Machine

/-- `Oversized(L)` (R177). -/
def oversized (l : Half) (s : State) : State :=
  { s.diag .oversized l with rxRemaining := l, rxState := .discard }

/-- `Exhausted(L)` (R179). -/
def exhausted (l : Half) (s : State) : State :=
  if l = 0#16 then { s.diag .exhausted l with rxState := .awaitHdr }
  else { s.diag .exhausted l with rxRemaining := l, rxState := .discard }

/-- Latch `channel` and `source_id` into receive buffer `i` (R175, R176, R184). -/
def latchHeader (i : Nat) (chan src : Byte) (s : State) : State :=
  s.updBuf .rx i (fun b => { b with chan := chan, src := src })

/-- `StartPayload(i, L, c, s)` (R175). -/
def startPayload (i : Nat) (l : Half) (chan src : Byte) (s : State) : State :=
  { latchHeader i chan src s with rxBufIdx := BitVec.ofNat 5 i, rxRemaining := l, rxState := .awaitPayload }

/-- `ZeroFrame(i, c, s)` (R176): enqueued at once. -/
def zeroFrame (i : Nat) (chan src : Byte) (s : State) : State :=
  { (latchHeader i chan src s).qPush i with rxState := .awaitHdr }

/-- `HeaderComplete(L, c, s)` (R174): the oversize test comes first, and no allocation is attempted when it holds. -/
def headerComplete (l : Half) (chan src : Byte) (s : State) : State :=
  if s.cfg.rxBufCap < l.toNat then oversized l s
  else
    match s.poolAlloc? .rx 0 (if l = 0#16 then .queue else .receiver) with
    | none => exhausted l s
    | some (i, t) => if l = 0#16 then zeroFrame i chan src t else startPayload i l chan src t

/-- `hdr_buf[j] <- b` (R172, R173). -/
def HdrBuf.put (h : HdrBuf) (j : BitVec 2) (b : Byte) : HdrBuf :=
  if j = 0#2 then { h with b0 := b }
  else if j = 1#2 then { h with b1 := b }
  else if j = 2#2 then { h with b2 := b }
  else { h with b3 := b }

/-- `HeaderByte(b)` (R172, R173). -/
def headerByte (b : Byte) (s : State) : State :=
  let h := s.hdrBuf.put s.hdrCnt b
  if s.hdrCnt = 3#2 then
    headerComplete (le16 h.b0 h.b1) h.b2 h.b3 { s with hdrBuf := h, hdrCnt := 0#2 }
  else { s with hdrBuf := h, hdrCnt := s.hdrCnt + 1#2 }

/-- The last payload byte's handoff (R178): the buffer is enqueued and the receiver awaits a header. -/
def payloadDone (i : Nat) (s : State) : State :=
  { (s.setOwner .rx i .queue).qPush i with rxBufIdx := 0#5, rxState := .awaitHdr }

/-- `PayloadByte(b)` (R178). -/
def payloadByte (v : Byte) (s : State) : Out :=
  let i := s.rxBufIdx.toNat
  match s.buf? .rx i with
  | none => .fault .noSuchBuffer
  | some b =>
    if s.rxRemaining = 0#16 then .fault .counterUnderflow
    else
      match s.bufWrite? .rx i (b.head.toNat + b.len.toNat) v with
      | none => .fault .bufferAccess
      | some t =>
        let u := { t.updBuf .rx i (fun b => { b with len := b.len + 1#16 }) with rxRemaining := s.rxRemaining - 1#16 }
        if u.rxRemaining = 0#16 then .next (payloadDone i u) else .next u

/-- `DiscardByte(b)` (R180): the byte's value is not stored anywhere. -/
def discardByte (s : State) : Out :=
  if s.rxRemaining = 0#16 then .fault .counterUnderflow
  else
    let t := { s with rxRemaining := s.rxRemaining - 1#16 }
    if t.rxRemaining = 0#16 then .next { t with rxState := .awaitHdr } else .next t

/-- The receiver's handling of the byte it has popped (R170). -/
def receiveByte (b : Byte) (s : State) : Out :=
  match s.rxState with
  | .awaitHdr => .next (headerByte b s)
  | .awaitPayload => payloadByte b s
  | .discard => discardByte s

/-- RX_BYTE (R170): the receiver pops the oldest byte, where it is enabled and a byte waits; otherwise it has no step and stays
as it is. The event's DATA names the byte popped and is not consulted. DESIGN CHOICE, log 7: safe. -/
def execRxByte (_data : Byte) (s : State) : Out :=
  if s.rxEn then
    match s.uartRx with
    | [] => .next s
    | b :: rest => receiveByte b { s with uartRx := rest }
  else .next s

/-- TX_READY (R181): ignored in every receiver state. -/
def execTxReady (s : State) : Out := .next s

/-- SPURIOUS (R182): a no-op. -/
def execSpurious (s : State) : Out := .next s

end Sys2Proof.Machine
end

