-- ==== Sys2Proof/Machine/Transmit.lean ====
section
/-! DEFINITION. The transmit framer (42_transmit.md): the TX command, its acceptance, the framer's byte step and the completion
of a frame. -/

namespace Sys2Proof.Machine

/-- A TX that faults at acceptance returns its port to IDLE (42_transmit.md R210, 60_exceptions.md R304). -/
def txFault (k : Nat) (c : Cause) (s : State) : State := (s.setPortState k .idle).raise k c

/-- The handoff to the framer (R211), after the header bytes are written. The index and the port fit their registers in a legal
instance. DEDUCED, log 16: safe. -/
def txHandoff (k i : Nat) (s : State) : State :=
  ({ s.setOwner .tx i .transmitter with
      txBusy := true, txIdx := BitVec.ofNat 5 i, txPos := 0#16, txPort := BitVec.ofNat 8 k }).setPortState k .txWait

/-- `TxAccept(k, i)` (R210 part 2, R211), in the step the framer is found idle. -/
def txAccept (k i : Nat) (s : State) : Out :=
  match s.buf? .tx i with
  | none => .fault .noSuchBuffer
  | some b =>
    if b.owner ≠ .client then .next (txFault k .notOwned s)
    else if b.head.toNat < 4 then .next (txFault k .noHeadroom s)
    else
      match (s.bufPush .tx i 4).bufWrites? .tx i (b.head.toNat - 4) (headerBytes b.len 0#8 0#8) with
      | none => .fault .bufferAccess
      | some t => .next (txHandoff k i t)

/-- `TX pool, i` (R210 part 1): pool and index are checked at once; the command holds while the framer is busy. -/
def execTx (p : Pool) (i : Nat) (s : State) : Out :=
  if p ≠ .tx then .next (s.raise s.cmdPort .wrongPool)
  else if s.cfg.txPoolN ≤ i then .next (s.raise s.cmdPort .invalidId)
  else if s.txBusy then .next (s.setPortState s.cmdPort (.holdTx i))
  else txAccept s.cmdPort i s

/-- `TxComplete` (R214), in the step of the frame's last byte. -/
def txComplete (s : State) : State :=
  let t := ((s.setOwner .tx s.txIdx.toNat .free).respond s.txPort.toNat .ok 0#32).setPortState s.txPort.toNat .idle
  { t with txBusy := false, txIdx := 0#5, txPos := 0#16, txPort := 0#8 }

/-- `FramerStep` (R213), with its draw of `uart_tx_ready`. A framer that is idle, or whose UART is not ready, stays as it is.
DESIGN CHOICE, log 8: safe. -/
def framerStep (ready : Bool) (s : State) : Out :=
  if s.txBusy && ready then
    match s.buf? .tx s.txIdx.toNat with
    | none => .fault .noSuchBuffer
    | some b =>
      match s.bufRead? .tx s.txIdx.toNat (b.head.toNat + s.txPos.toNat) with
      | none => .fault .bufferAccess
      | some v =>
        let t := { s.uartTxPut v with txPos := s.txPos + 1#16 }
        if t.txPos = b.len then .next (txComplete t) else .next t
  else .next s

end Sys2Proof.Machine
end

