-- ==== Sys2Proof/Machine/Dispatch.lean ====
section
/-! DEFINITION. What each instruction does to the state: a command is performed as placed on port `cmdPort`, an event as
delivered to the receiver. One arm per constructor. -/

namespace Sys2Proof.Machine

def exec (i : Instr) (s : State) : Host.Outcome State Fault Refusal :=
  match i with
  | .nop => Sys2Proof.Machine.execNop s
  | .alloc p r => Sys2Proof.Machine.execAlloc p r s
  | .release p j => Sys2Proof.Machine.execRelease p j s
  | .bufAdd p j b => Sys2Proof.Machine.execBufAdd p j b s
  | .bufPull p j n => Sys2Proof.Machine.execBufPull p j n s
  | .bufRd p j o => Sys2Proof.Machine.execBufRd p j o s
  | .bufInfo p j => Sys2Proof.Machine.execBufInfo p j s
  | .bufHdr p j => Sys2Proof.Machine.execBufHdr p j s
  | .deq => Sys2Proof.Machine.execDeq s
  | .tx p j => Sys2Proof.Machine.execTx p j s
  | .init => Sys2Proof.Machine.execInit s
  | .csrRd c => Sys2Proof.Machine.execCsrRd c s
  | .spurious => Sys2Proof.Machine.execSpurious s
  | .rxByte d => Sys2Proof.Machine.execRxByte d s
  | .txReady => Sys2Proof.Machine.execTxReady s

end Sys2Proof.Machine
end

