-- ==== Sys2Proof/WellFormed.lean ====
section
/-! DEFINITION. Which instructions have an encoding: an index fits the 7-bit IDX field, an immediate the 16-bit IMM field
(30_encoding.md R100, "All fields are zero-extended"). What an index or an immediate may be for a command to succeed is no
matter of form: those checks are faults of the command (60_exceptions.md R302). -/

namespace Sys2Proof

/-- IDX is bits [22:16], 7 bits (R100). -/
def idxFits (i : Nat) : Bool := i < 128

/-- IMM is bits [15:0], 16 bits (R100). -/
def immFits (n : Nat) : Bool := n < 65536

/-- Every operand fits its field (R100). -/
def Instr.wf : Instr → Bool
  | .nop | .deq | .init | .spurious | .txReady => true
  | .rxByte _ => true
  | .alloc _ r => immFits r
  | .release _ i | .bufAdd _ i _ | .bufInfo _ i | .bufHdr _ i | .tx _ i => idxFits i
  | .bufPull _ i n => idxFits i && immFits n
  | .bufRd _ i o => idxFits i && immFits o
  | .csrRd c => immFits c

end Sys2Proof
end

