-- ==== Sys2Proof/Decode.lean ====
section
/-! DEFINITION. The decoder, total on all 2^32 command words (30_encoding.md R104) and all 2^10 event words (R112), and the
encoder, both written from the field table of R100 and the opcode map of R102. -/

namespace Sys2Proof

/-- Why a word is no instruction. -/
inductive DecodeError where
  /-- OPC is not in the map of R102: the fault ILLEGAL_OPCODE (R104). -/
  | illegalOpcode
  /-- A field that R102 marks 0 is not zero: the fault RESERVED_NONZERO (R103). -/
  | reservedNonzero
  /-- An event word of KIND 3, or of KIND 0 or 2 with nonzero DATA: never produced by the environment (R112). -/
  | reservedEvent
  deriving DecidableEq, Repr

/-- `OPC`, bits [31:24] (R100). -/
def opcOf (w : Word) : BitVec 8 := w.extractLsb 31 24

/-- `P`, bit [23] (R100, R101): 0 is the receive pool, 1 the transmit pool. -/
def poolOf (w : Word) : Pool := if w.extractLsb 23 23 = 0#1 then .rx else .tx

/-- `IDX`, bits [22:16], zero-extended (R100, R101). -/
def idxOf (w : Word) : Nat := (w.extractLsb 22 16).toNat

/-- `IMM`, bits [15:0], zero-extended (R100). -/
def immOf (w : Word) : Nat := (w.extractLsb 15 0).toNat

/-- `IMM[7:0]`, the byte operand of BUF_ADD (R102). -/
def immLow (w : Word) : Byte := w.extractLsb 7 0

/-- `IMM[15:8]`, reserved in BUF_ADD (R103). -/
def immHigh (w : Word) : Byte := w.extractLsb 15 8

/-- R103: the reserved fields must all be zero; otherwise the command faults RESERVED_NONZERO. -/
def reserved (zero : Bool) (i : Instr) : Except DecodeError Instr :=
  if zero then .ok i else .error .reservedNonzero

/-- The opcode map of R102, with the reserved-field check of R103 after the opcode check (60_exceptions.md R303, steps 1
and 2). -/
def decodeCommand (w : Word) : Except DecodeError Instr :=
  let opc := opcOf w
  let p := poolOf w
  let i := idxOf w
  let n := immOf w
  if opc = 0x00#8 then reserved (p = .rx && i = 0 && n = 0) .nop
  else if opc = 0x01#8 then reserved (i = 0) (.alloc p n)
  else if opc = 0x02#8 then reserved (n = 0) (.release p i)
  else if opc = 0x03#8 then reserved (immHigh w = 0#8) (.bufAdd p i (immLow w))
  else if opc = 0x04#8 then .ok (.bufPull p i n)
  else if opc = 0x05#8 then .ok (.bufRd p i n)
  else if opc = 0x06#8 then reserved (n = 0) (.bufInfo p i)
  else if opc = 0x07#8 then reserved (n = 0) (.bufHdr p i)
  else if opc = 0x10#8 then reserved (p = .rx && i = 0 && n = 0) .deq
  else if opc = 0x20#8 then reserved (n = 0) (.tx p i)
  else if opc = 0x30#8 then reserved (p = .rx && i = 0 && n = 0) .init
  else if opc = 0x31#8 then reserved (p = .rx && i = 0) (.csrRd n)
  else .error .illegalOpcode

/-- `KIND`, bits [9:8] of an event word (R112). -/
def kindOf (w : EventWord) : BitVec 2 := w.extractLsb 9 8

/-- `DATA`, bits [7:0] of an event word (R112). -/
def dataOf (w : EventWord) : Byte := w.extractLsb 7 0

/-- The event table of R112. Nonzero DATA makes KIND 0 or 2 no event: the opcode table's mask 0x3FF. DEDUCED, log 13: safe. -/
def decodeEvent (w : EventWord) : Except DecodeError Instr :=
  if kindOf w = 1#2 then .ok (.rxByte (dataOf w))
  else if dataOf w ≠ 0#8 then .error .reservedEvent
  else if kindOf w = 0#2 then .ok .spurious
  else if kindOf w = 2#2 then .ok .txReady
  else .error .reservedEvent

/-- The decoder: total on whatever a port or the UART delivers. -/
def decode : Wire → Except DecodeError Instr
  | .command w => decodeCommand w
  | .event w => decodeEvent w

/-! ### The encoder -/

/-- The bit `P` of a pool (R100). -/
def Pool.bit : Pool → BitVec 1
  | .rx => 0#1
  | .tx => 1#1

/-- A command word from its four fields (R100): `OPC[31:24] P[23] IDX[22:16] IMM[15:0]`. -/
def commandWord (opc : BitVec 8) (p : Pool) (idx : Nat) (imm : Half) : Word :=
  opc ++ p.bit ++ BitVec.ofNat 7 idx ++ imm

/-- An event word from its two fields (R112). -/
def eventWord (kind : BitVec 2) (data : Byte) : EventWord := kind ++ data

/-- The word of an instruction (R102, R112); a field the map marks 0 is zero. -/
def encode : Instr → Wire
  | .nop => .command (commandWord 0x00#8 .rx 0 0#16)
  | .alloc p r => .command (commandWord 0x01#8 p 0 (BitVec.ofNat 16 r))
  | .release p i => .command (commandWord 0x02#8 p i 0#16)
  | .bufAdd p i b => .command (commandWord 0x03#8 p i (0#8 ++ b))
  | .bufPull p i n => .command (commandWord 0x04#8 p i (BitVec.ofNat 16 n))
  | .bufRd p i o => .command (commandWord 0x05#8 p i (BitVec.ofNat 16 o))
  | .bufInfo p i => .command (commandWord 0x06#8 p i 0#16)
  | .bufHdr p i => .command (commandWord 0x07#8 p i 0#16)
  | .deq => .command (commandWord 0x10#8 .rx 0 0#16)
  | .tx p i => .command (commandWord 0x20#8 p i 0#16)
  | .init => .command (commandWord 0x30#8 .rx 0 0#16)
  | .csrRd c => .command (commandWord 0x31#8 .rx 0 (BitVec.ofNat 16 c))
  | .spurious => .event (eventWord 0#2 0#8)
  | .rxByte d => .event (eventWord 1#2 d)
  | .txReady => .event (eventWord 2#2 0#8)

/-! ### The opcode table's numbering -/

/-- The wire form of a table row's bits: a row of up to two whole bytes is an event word (width 10 in the table), any other a
command word. `none` where the number has bits above the word's width. -/
def tableWire (nbits w : Nat) : Option Wire :=
  if nbits ≤ 16 then if w < 2 ^ 10 then some (.event (BitVec.ofNat 10 w)) else none
  else if w < 2 ^ 32 then some (.command (BitVec.ofNat 32 w)) else none

/-- The instruction the decoder reads from a row of spec/opcode_table.json. A command is one word on a port and an event one
word of the UART; neither is stored in bytes, so the number is the word. -/
def decodeTableWord (nbits w : Nat) : Option Instr :=
  match tableWire nbits w with
  | none => none
  | some x =>
    match decode x with
    | .ok i => some i
    | .error _ => none

end Sys2Proof
end

