-- ==== Sys2Proof/Machine/Agents.lean ====
section
/-! DEFINITION. The steps that no command word or event word names: a port trying its held command again, the collaborator's
answers, and the environment's moves (00_scope.md R8, 70_reset_and_hazards.md R360), reset among them (R340). -/

namespace Sys2Proof.Machine

/-- A step of port `k` of its own (43_queue.md R242, 42_transmit.md R214): a held command is completed or accepted if what it
waits for has come; otherwise the port stays as it is. DESIGN CHOICE, log 8: safe. -/
def portStep (k : Nat) (s : State) : Out :=
  match s.port? k with
  | none => .refused .noSuchPort
  | some p =>
    match p.state with
    | .holdDeq =>
      match s.q with
      | [] => .next s
      | i :: q => deqComplete i q s
    | .holdTx i => if s.txBusy then .next s else txAccept k i s
    | .idle | .txWait | .initDisable | .initEnable => .next s

/-- The port state waits for the collaborator (44_control.md R262). -/
def PortState.awaitsCollaborator : PortState → Bool
  | .initDisable | .initEnable => true
  | .idle | .holdDeq | .holdTx _ | .txWait => false

/-- Port `k` waits for the collaborator. -/
def State.portAwaits (s : State) (k : Nat) : Bool :=
  match s.port? k with
  | none => false
  | some p => p.state.awaitsCollaborator

/-- Port `k` is in the given state. -/
def State.portIn (s : State) (k : Nat) (x : PortState) : Bool :=
  match s.port? k with
  | none => false
  | some p => p.state = x

/-- The port whose collaborator call is outstanding, if any (R262); there is at most one. DEDUCED, log 11: safe.
A call outstanding at a reset is forgotten. DESIGN CHOICE, log 23: unsafe. -/
def State.calling? (s : State) : Option Nat :=
  (List.range s.cfg.nCmdPorts).find? s.portAwaits

/-- The collaborator answers the outstanding call with status `x` (R262 to R264). A late answer to a call that was outstanding at a
reset is refused, or taken as the answer to a later INIT's call. DESIGN CHOICE, log 23: unsafe. -/
def collaboratorAnswer (x : Word) (s : State) : Out :=
  match s.calling? with
  | none => .refused .answerWithoutCall
  | some k => if s.portIn k .initDisable then .next (initDisabled k x s) else .next (initEnabled k x s)

/-- The UART's receive FIFO holds as many bytes as it can (70_reset_and_hazards.md R361). -/
def State.uartRxFull (s : State) : Bool :=
  match s.cfg.uartRxFifoDepth with
  | none => false
  | some d => d ≤ s.uartRx.length

/-- A byte arrives (R361): it is appended, or lost where the FIFO is full. DEDUCED, log 12: safe. -/
def uartArrive (b : Byte) (s : State) : State :=
  if s.uartRxFull then s else { s with uartRx := s.uartRx ++ [b] }

/-- Reset (R340): every block field takes its value of R59, whatever the state before; the buffers' bytes are drawn anew; the
UART streams, the binding, the parameters and who moves next are not the block's and stay. DESIGN CHOICE, log 14: safe.
A collaborator call that is outstanding is forgotten: the spec does not say what its later answer does. DESIGN CHOICE, log 23:
unsafe. -/
def blockReset (s : State) : State :=
  { State.fresh s.cfg with
    uartRx := s.uartRx, uartTx := s.uartTx, uartBound := s.uartBound, drawGen := s.drawGen + 1, schedule := s.schedule }

end Sys2Proof.Machine
end

