-- ==== Sys2Proof/Machine/Fetch.lean ====
section
/-! DEFINITION. How a step comes by its instruction. The block has no program counter and fetches from no memory (10_state.md
R46): a command word is placed on a port, an event word is delivered by the UART, and every other step is an agent's own. -/

namespace Sys2Proof.Machine

/-- A command word placed on port `k` (30_encoding.md R107): the instruction to perform and the state to perform it in, or how
the step ends without one. The opcode and reserved-field checks fault the command (60_exceptions.md R303, steps 1 and 2).
That the client has taken the previous response is not tracked. DESIGN CHOICE, log 6: safe. -/
def fetchCommand (k : Nat) (w : Word) (s : State) : Except Out (Instr × State) :=
  match s.port? k with
  | none => .error (.refused .noSuchPort)
  | some p =>
    if p.state ≠ .idle then .error (.refused .portNotIdle)
    else
      match decode (.command w) with
      | .ok i => .ok (i, { s with cmdPort := k })
      | .error .illegalOpcode => .error (.next (({ s with cmdPort := k }).raise k .illegalOpcode))
      | .error .reservedNonzero => .error (.next (({ s with cmdPort := k }).raise k .reservedNonzero))
      | .error .reservedEvent => .error (.refused .reservedEvent)

/-- An event word delivered to the receiver (R112); a word that is no event is refused (41_receiver.md R182). -/
def fetchEvent (w : EventWord) (s : State) : Except Out (Instr × State) :=
  match decode (.event w) with
  | .ok i => .ok (i, s)
  | .error _ => .error (.refused .reservedEvent)

/-- The step that is due: an instruction and the state it runs in, or the outcome of an agent's own step. With nobody
scheduled the block waits (70_reset_and_hazards.md R341). -/
def fetch (s : State) : Except Out (Instr × State) :=
  match s.schedule with
  | [] => .error (.next s)
  | a :: rest =>
    let t := { s with schedule := rest }
    match a with
    | .command k w => fetchCommand k w t
    | .event w => fetchEvent w t
    | .port k => .error (portStep k t)
    | .framer ready => .error (framerStep ready t)
    | .answer x => .error (collaboratorAnswer x t)
    | .arrive b => .error (.next (uartArrive b t))
    | .bind bound => .error (.next { t with uartBound := bound })
    | .reset => .error (.next (blockReset t))

/-- The action that delivers a wire word: a command goes to port 0, the port every command may be placed on (60_exceptions.md
R330). -/
def deliver : Wire → Action
  | .command w => .command 0 w
  | .event w => .event w

/-- What an RX_BYTE event needs besides its word (41_receiver.md R170): the byte at the front of `uart_rx` and the receiver
enabled. Any other word needs nothing. Log 5. -/
def presentByte (x : Wire) (s : State) : State :=
  match decode x with
  | .ok (.rxByte d) => { s with uartRx := d :: s.uartRx, rxEn := true }
  | _ => s

/-- The word is scheduled to be delivered next. -/
def scheduleWord (x : Wire) (s : State) : State :=
  { presentByte x s with schedule := deliver x :: s.schedule }

end Sys2Proof.Machine
end

