-- ==== Sys2Proof/Machine/Step.lean ====
section
/-! DEFINITION. One step of the machine: the head of the schedule moves (20_memory.md R70: atomic steps, in any order; the
schedule is the order). There is no time (70_reset_and_hazards.md R350) and no fairness. DESIGN CHOICE, log 20: safe. -/

namespace Sys2Proof.Machine

/-- One atomic step. -/
def step (s : State) : Host.Outcome State Fault Refusal :=
  match fetch s with
  | .ok (i, t) => exec i t
  | .error o => o

/-- The state in which the very next step delivers the word of an opcode table row (log 5). A number that is no word of the
table's widths leaves the state as it is. -/
def State.withFetchWord (s : State) (nbits w : Nat) : State :=
  match tableWire nbits w with
  | none => s
  | some x => scheduleWord x s

end Sys2Proof.Machine
end

