-- ==== Sys2Proof/Safety.lean ====
section
/-! DEFINITION. The terms claims are made in: the invariants the rules preserve (10_state.md R54 to R58), written with bounded
quantifiers so that they can be decided of a concrete state; what a step leaves alone; and the states a run is observed in
(70_reset_and_hazards.md R362). -/

namespace Sys2Proof.Machine

/-! ### Invariants -/

/-- Every buffer of pool `p` has the property. -/
abbrev State.allBufs (s : State) (p : Pool) (φ : Nat → Buffer → Prop) : Prop :=
  ∀ i < s.poolN p, ∀ b ∈ s.buf? p i, φ i b

/-- Every port has the property. -/
abbrev State.allPorts (s : State) (φ : Nat → Port → Prop) : Prop :=
  ∀ k < s.cfg.nCmdPorts, ∀ x ∈ s.port? k, φ k x

/-- The parameters are legal (R6), and the pools and the ports have the numbers of members the parameters give (R27, R32, R58). -/
abbrev State.Shaped (s : State) : Prop :=
  s.cfg.Valid ∧ s.rxPool.length = s.cfg.rxPoolN ∧ s.txPool.length = s.cfg.txPoolN ∧ s.ports.length = s.cfg.nCmdPorts

/-- R54: the FIFO's entries are pairwise distinct and are exactly the receive buffers owned by QUEUE. -/
abbrev State.QueueAgrees (s : State) : Prop :=
  s.q.Nodup ∧ (∀ x ∈ s.q, x.toNat < s.cfg.rxPoolN) ∧
  s.allBufs .rx (fun i b => b.owner = .queue ↔ BitVec.ofNat 5 i ∈ s.q)

/-- R55: a buffer is owned by RECEIVER exactly in AWAIT_PAYLOAD, and it is the one being filled; no transmit buffer is ever
RECEIVER or QUEUE, no receive buffer ever TRANSMITTER. -/
abbrev State.ReceiverAgrees (s : State) : Prop :=
  s.allBufs .rx (fun i b => (b.owner = .receiver ↔ s.rxState = .awaitPayload ∧ s.rxBufIdx.toNat = i) ∧ b.owner ≠ .transmitter) ∧
  (s.rxState = .awaitPayload → s.rxBufIdx.toNat < s.cfg.rxPoolN) ∧
  s.allBufs .tx (fun _ b => b.owner ≠ .receiver ∧ b.owner ≠ .queue)

/-- R56: a buffer is owned by TRANSMITTER exactly while the framer is busy, and it is the one being sent, at least a header
long, with a byte still to send; exactly then one port is in TX_WAIT, the framer's. -/
abbrev State.FramerAgrees (s : State) : Prop :=
  s.allBufs .tx (fun i b => b.owner = .transmitter ↔ s.txBusy = true ∧ s.txIdx.toNat = i) ∧
  (s.txBusy = true → s.txIdx.toNat < s.cfg.txPoolN ∧ s.txPort.toNat < s.cfg.nCmdPorts) ∧
  s.allBufs .tx (fun i b => s.txBusy = true ∧ s.txIdx.toNat = i → 4 ≤ b.len.toNat ∧ s.txPos.toNat + 1 ≤ b.len.toNat) ∧
  s.allPorts (fun k x => x.state = .txWait ↔ s.txBusy = true ∧ s.txPort.toNat = k)

/-- R57: the used region lies in the buffer; the buffer being filled starts at 0 and has room for what remains; something
remains in AWAIT_PAYLOAD and in DISCARD. -/
abbrev State.Bounded (s : State) : Prop :=
  s.allBufs .rx (fun _ b => b.head.toNat + b.len.toNat ≤ s.cfg.rxBufCap) ∧
  s.allBufs .tx (fun _ b => b.head.toNat + b.len.toNat ≤ s.cfg.txBufCap) ∧
  s.allBufs .rx (fun i b => s.rxState = .awaitPayload ∧ s.rxBufIdx.toNat = i →
    b.head = 0#16 ∧ b.len.toNat + s.rxRemaining.toNat = (le16 s.hdrBuf.b0 s.hdrBuf.b1).toNat ∧
    (le16 s.hdrBuf.b0 s.hdrBuf.b1).toNat ≤ s.cfg.rxBufCap) ∧
  (s.rxState ≠ .awaitHdr → 1 ≤ s.rxRemaining.toNat)

/-- R23, R25, R26, R31: a register that is meaningless in the present state is 0. -/
abbrev State.Rested (s : State) : Prop :=
  (s.rxState = .awaitHdr → s.rxRemaining = 0#16) ∧ (s.rxState ≠ .awaitHdr → s.hdrCnt = 0#2) ∧
  (s.rxState ≠ .awaitPayload → s.rxBufIdx = 0#5) ∧
  (s.txBusy = false → s.txIdx = 0#5 ∧ s.txPos = 0#16 ∧ s.txPort = 0#8)

/-- R33, R261 to R264: the receiver is enabled exactly once INIT has passed `disable()`; while it is not, it has taken no step;
a port waits for the collaborator exactly in the phases DISABLING and ENABLING, one port at a time. -/
abbrev State.InitAgrees (s : State) : Prop :=
  (s.rxEn = true ↔ s.initPhase = .enabling ∨ s.initPhase = .ready) ∧
  (s.rxEn = false → s.rxState = .awaitHdr ∧ s.hdrCnt = 0#2) ∧
  s.allPorts (fun _ x => (x.state = .initDisable → s.initPhase = .disabling) ∧ (x.state = .initEnable → s.initPhase = .enabling)) ∧
  s.allPorts (fun k x => s.allPorts (fun k' x' =>
    x.state.awaitsCollaborator = true ∧ x'.state.awaitsCollaborator = true → k = k')) ∧
  (s.initPhase = .disabling ∨ s.initPhase = .enabling → s.calling?.isSome = true)

/-- The transmit buffer of a held TX (R32). -/
def PortState.heldTx? : PortState → Option Nat
  | .holdTx i => some i
  | .idle | .holdDeq | .txWait | .initDisable | .initEnable => none

/-- R241, R210: only port 0 holds a DEQ, and a held TX names a transmit buffer. -/
abbrev State.HoldsAgree (s : State) : Prop :=
  s.allPorts (fun k x => x.state = .holdDeq → k = 0) ∧
  s.allPorts (fun _ x => ∀ i ∈ x.state.heldTx?, i < s.cfg.txPoolN)

/-- Every buffer's byte region is in its canonical form and holds bytes of the region only (20_memory.md R60). -/
abbrev State.MemoryWf (s : State) : Prop :=
  s.allBufs .rx (fun _ b => b.data.wf ∧ ∀ c ∈ b.data, c.1 < s.cfg.rxBufCap) ∧
  s.allBufs .tx (fun _ b => b.data.wf ∧ ∀ c ∈ b.data, c.1 < s.cfg.txBufCap)

/-- Every byte of every used region has been written since reset (92_eei_decisions.md D9: "every byte later brought into the
used region is written first"). -/
abbrev State.UsedWritten (s : State) : Prop :=
  s.allBufs .rx (fun _ b => ∀ j < b.len.toNat, (b.data.read (b.head.toNat + j)).isSome = true) ∧
  s.allBufs .tx (fun _ b => ∀ j < b.len.toNat, (b.data.read (b.head.toNat + j)).isSome = true)

/-- The block's invariant: R54 to R58 with what the register rules add. -/
structure State.Inv (s : State) : Prop where
  shaped : s.Shaped
  queue : s.QueueAgrees
  receiver : s.ReceiverAgrees
  framer : s.FramerAgrees
  bounded : s.Bounded
  rested : s.Rested
  init : s.InitAgrees
  holds : s.HoldsAgree
  memory : s.MemoryWf
  written : s.UsedWritten

/-! ### What a step leaves alone -/

/-- The receiver's registers (R21 to R26) are those of `s`. -/
abbrev SameReceiver (s t : State) : Prop :=
  t.rxEn = s.rxEn ∧ t.rxState = s.rxState ∧ t.hdrCnt = s.hdrCnt ∧ t.hdrBuf = s.hdrBuf ∧ t.rxRemaining = s.rxRemaining ∧
  t.rxBufIdx = s.rxBufIdx

/-- The framer's registers (R31) are those of `s`. -/
abbrev SameFramer (s t : State) : Prop :=
  t.txBusy = s.txBusy ∧ t.txIdx = s.txIdx ∧ t.txPos = s.txPos ∧ t.txPort = s.txPort

/-- The FAULT register (R34) is that of `s`. -/
abbrev SameFault (s t : State) : Prop := t.faultValid = s.faultValid ∧ t.faultCause = s.faultCause

/-- The environment's state (R44, R12) is that of `s`. -/
abbrev SameEnvironment (s t : State) : Prop :=
  t.uartRx = s.uartRx ∧ t.uartTx = s.uartTx ∧ t.uartBound = s.uartBound

/-- The parameters and the model's own fields are those of `s`. -/
abbrev SameOwn (s t : State) : Prop :=
  t.cfg = s.cfg ∧ t.cmdPort = s.cmdPort ∧ t.drawGen = s.drawGen ∧ t.schedule = s.schedule

/-- Everything but the buffers, the ports and the FAULT register is that of `s`. -/
abbrev SameButFault (s t : State) : Prop :=
  SameReceiver s t ∧ t.q = s.q ∧ SameFramer s t ∧ t.initPhase = s.initPhase ∧ t.diagLog = s.diagLog ∧ SameEnvironment s t ∧
  SameOwn s t

/-- Everything but the buffers and the ports is that of `s`. -/
abbrev SameRegisters (s t : State) : Prop := SameButFault s t ∧ SameFault s t

/-- Port `k` has the new registers that `f` gives it, and every other port is that of `s`. -/
abbrev OnlyPort (s t : State) (k : Nat) (f : Port → Port) : Prop :=
  ∀ k', t.port? k' = if k' = k then (s.port? k).map f else s.port? k'

/-- Port `k` has the given response, its state unchanged, and every other port is that of `s`. -/
abbrev Responded (s t : State) (k : Nat) (code : BitVec 8) (value : Word) : Prop :=
  OnlyPort s t k (fun x => { x with rspCode := code, rspValue := value })

/-- Every port is that of `s`. -/
abbrev SamePorts (s t : State) : Prop := ∀ k, t.port? k = s.port? k

/-- A buffer's fields but for its bytes. -/
abbrev Buffer.tags (b : Buffer) : Owner × Half × Half × Byte × Byte := (b.owner, b.head, b.len, b.chan, b.src)

/-- Every buffer's fields but its bytes are those of `s`. -/
abbrev SameTags (s t : State) : Prop := ∀ p i, (t.buf? p i).map Buffer.tags = (s.buf? p i).map Buffer.tags

/-- Buffer `(p, i)` has the given owner, head, len, chan and src; every other buffer has those of `s`. -/
abbrev OnlyTags (s t : State) (p : Pool) (i : Nat) (x : Owner × Half × Half × Byte × Byte) : Prop :=
  ∀ p' i', (t.buf? p' i').map Buffer.tags = if p' = p ∧ i' = i then some x else (s.buf? p' i').map Buffer.tags

/-- Every byte of buffer space reads as in `s`. -/
abbrev SameBytes (s t : State) : Prop := ∀ p i j, t.bufRead? p i j = s.bufRead? p i j

/-- The byte `(p, i, j)` reads `v`; every other byte of buffer space reads as in `s`. -/
abbrev OnlyByte (s t : State) (p : Pool) (i j : Nat) (v : Byte) : Prop :=
  ∀ p' i' j', t.bufRead? p' i' j' = if p' = p ∧ i' = i ∧ j' = j then some v else s.bufRead? p' i' j'

/-- A fault's effect but for its port (R304, R305): the FAULT register's update, and nothing else. -/
abbrev FaultRecorded (s t : State) (c : Cause) : Prop :=
  SameButFault s t ∧ SameTags s t ∧ SameBytes s t ∧ t.faultValid = true ∧
  t.faultCause = if s.faultValid = true then s.faultCause else c.byte

/-- `raise Fault(cause)` on port `k` (R304, R305): the response, the FAULT register's update, and nothing else. -/
abbrev Faulted (s t : State) (k : Nat) (c : Cause) : Prop := FaultRecorded s t c ∧ Responded s t k c.byte 0#32

/-- The command on port `k` completes with a response and changes nothing else. -/
abbrev OnlyResponded (s t : State) (k : Nat) (code : BitVec 8) (value : Word) : Prop :=
  SameRegisters s t ∧ SameTags s t ∧ SameBytes s t ∧ Responded s t k code value

/-! ### Single moves and kinds of instructions -/

/-- One step in which the action `a` moves (20_memory.md R70). -/
abbrev act (a : Action) (s : State) : Out := step { s with schedule := a :: s.schedule }

/-- The pool, the index and the fault on a FREE buffer of a command that CheckBuf guards (40_pool.md R139). -/
def guardedBuffer? : Instr → Option (Pool × Nat × Cause)
  | .release p i => some (p, i, .doubleRelease)
  | .bufAdd p i _ | .bufPull p i _ | .bufRd p i _ | .bufInfo p i => some (p, i, .notOwned)
  | .bufHdr .rx i => some (.rx, i, .notOwned)
  | .bufHdr .tx _ | .nop | .alloc _ _ | .deq | .tx _ _ | .init | .csrRd _ | .spurious | .rxByte _ | .txReady => none

/-- The commands without a side effect but their response (20_memory.md R64). -/
def readsOnly : Instr → Bool
  | .csrRd _ | .bufRd _ _ _ | .bufInfo _ _ | .bufHdr _ _ => true
  | .nop | .alloc _ _ | .release _ _ | .bufAdd _ _ _ | .bufPull _ _ _ | .deq | .tx _ _ | .init | .spurious | .rxByte _
  | .txReady => false

/-- The reserved bits of a command word by its opcode: "reserved_zero_mask" of spec/opcode_table.json (30_encoding.md R103);
`none` for an opcode that is not in the map (R104). -/
def reservedMask? (opc : BitVec 8) : Option Word :=
  ([(0x00#8, 0x00FFFFFF#32), (0x01#8, 0x007F0000#32), (0x02#8, 0x0000FFFF#32), (0x03#8, 0x0000FF00#32),
    (0x04#8, 0x00000000#32), (0x05#8, 0x00000000#32), (0x06#8, 0x0000FFFF#32), (0x07#8, 0x0000FFFF#32),
    (0x10#8, 0x00FFFFFF#32), (0x20#8, 0x0000FFFF#32), (0x30#8, 0x00FFFFFF#32), (0x31#8, 0x00FF0000#32)] :
    List (BitVec 8 × Word)).lookup opc

/-- The header accumulation buffer as a list, byte `j` at position `j` (R24). -/
abbrev HdrBuf.bytes (h : HdrBuf) : List Byte := [h.b0, h.b1, h.b2, h.b3]

/-- The response codes the block produces (30_encoding.md R106). -/
abbrev producedCode (c : BitVec 8) : Prop := c.toNat ≤ 0x03 ∨ (0x10 ≤ c.toNat ∧ c.toNat ≤ 0x1D)

/-- The legal changes of a buffer's owner in one step (10_state.md R28). -/
def legalHandoff : Pool → Owner → Owner → Bool
  | .rx, .free, .receiver | .rx, .receiver, .queue | .rx, .free, .queue | .rx, .queue, .client | .rx, .client, .free
  | .rx, .free, .client => true
  | .tx, .free, .client | .tx, .client, .transmitter | .tx, .transmitter, .free | .tx, .client, .free => true
  | _, x, y => x = y

/-- The step due is no reset. -/
abbrev State.resetNotDue (s : State) : Prop := s.schedule.head? ≠ some .reset

/-- The instruction is a UART event (R112), no command. -/
def isEvent : Instr → Bool
  | .spurious | .rxByte _ | .txReady => true
  | .nop | .alloc _ _ | .release _ _ | .bufAdd _ _ _ | .bufPull _ _ _ | .bufRd _ _ _ | .bufInfo _ _ | .bufHdr _ _ | .deq
  | .tx _ _ | .init | .csrRd _ => false

/-- A quiescent state (R362): no byte to take, no frame being sent, every port IDLE or holding a DEQ on an empty FIFO, no
collaborator call outstanding (a port that waits for it is neither; a reset leaves no call outstanding, log 23). -/
abbrev State.Quiescent (s : State) : Prop :=
  s.rxPending = false ∧ s.txBusy = false ∧
  s.allPorts (fun _ x => x.state = .idle ∨ (x.state = .holdDeq ∧ s.q = []))

/-- The receiver's steps over the given bytes, each the delivery of the RX_BYTE event that names its byte (41_receiver.md R170,
30_encoding.md R112). -/
def rxEvents (bs : List Byte) : List Action := bs.map (fun v => .event (eventWord 1#2 v))

/-- `n` framer steps with the UART ready at each (42_transmit.md R213). -/
def framerSteps (n : Nat) : List Action := List.replicate n (.framer true)

end Sys2Proof.Machine
end

