-- ==== Sys2Proof/Certificates/Slice0/Obligations.lean ====
section
/-! DEFINITION. The statements for the provers. A single move of an agent is `act a s`, one step in which `a` moves; a command's
own effect is `exec`, on the port `s.cmdPort`. -/

open Sys2Proof Sys2Proof.Machine

/-! ### Encoding -/

/-- The encoder's word of a well-formed instruction decodes to it, with every operand (R100 to R102, R112). -/
def Obligations.DecodeOfEncodeIsTheInstruction : Prop :=
  ∀ i : Instr, i.wf = true → decode (encode i) = .ok i

/-- A word that decodes is the encoding of the one well-formed instruction it decodes to. For command words that is R103 and R104
("every word is either one command of rule R102 or a fault"); that SPURIOUS and TX_READY have one event word each rests on log 13
(DEDUCED): nonzero DATA in KIND 0 or 2 is no event, the model's choice. -/
def Obligations.EveryDecodedWordIsItsEncoding : Prop :=
  ∀ (x : Wire) (i : Instr), decode x = .ok i → i.wf = true ∧ encode i = x

/-- The example words of R110. -/
def Obligations.SpecExampleWordsDecode : Prop :=
  decodeCommand 0x00000000#32 = .ok .nop ∧ decodeCommand 0x01000000#32 = .ok (.alloc .rx 0) ∧
  decodeCommand 0x01800004#32 = .ok (.alloc .tx 4) ∧ decodeCommand 0x02030000#32 = .ok (.release .rx 3) ∧
  decodeCommand 0x02810000#32 = .ok (.release .tx 1) ∧ decodeCommand 0x038000AA#32 = .ok (.bufAdd .tx 0 0xAA#8) ∧
  decodeCommand 0x04020005#32 = .ok (.bufPull .rx 2 5) ∧ decodeCommand 0x05000001#32 = .ok (.bufRd .rx 0 1) ∧
  decodeCommand 0x06810000#32 = .ok (.bufInfo .tx 1) ∧ decodeCommand 0x07070000#32 = .ok (.bufHdr .rx 7) ∧
  decodeCommand 0x10000000#32 = .ok .deq ∧ decodeCommand 0x20810000#32 = .ok (.tx .tx 1) ∧
  decodeCommand 0x30000000#32 = .ok .init ∧ decodeCommand 0x31000001#32 = .ok (.csrRd 1)

/-- The event table of R112: KIND 1 with any DATA is RX_BYTE of that byte, KIND 0 and 2 with DATA 0 are SPURIOUS and TX_READY,
KIND 3 is no event. That nonzero DATA makes KIND 0 or 2 no event is the opcode table's mask (log 13). -/
def Obligations.EventWordsDecodeByKind : Prop :=
  ∀ (kind : BitVec 2) (d : Byte),
    decodeEvent (kind ++ d) =
      if kind = 1#2 then .ok (.rxByte d)
      else if kind = 0#2 ∧ d = 0#8 then .ok .spurious
      else if kind = 2#2 ∧ d = 0#8 then .ok .txReady
      else .error .reservedEvent

/-- The decoder faults exactly by the table: an opcode outside the map, else a nonzero reserved bit (R103, R104). -/
def Obligations.DecoderFollowsTheReservedFields : Prop :=
  ∀ w : Word,
    match reservedMask? (opcOf w) with
    | none => decodeCommand w = .error .illegalOpcode
    | some m => if w &&& m = 0#32 then ∃ i, decodeCommand w = .ok i else decodeCommand w = .error .reservedNonzero

/-- A word that is no command faults on its port and performs nothing (R103, R104, R304, R305). -/
def Obligations.UndecodableWordFaultsItsPort : Prop :=
  ∀ (s : State) (k : Nat) (x : Port) (w : Word), s.port? k = some x → x.state = .idle →
    (decodeCommand w = .error .illegalOpcode →
      ∃ t, act (.command k w) s = .next t ∧ Faulted { s with cmdPort := k } t k .illegalOpcode) ∧
    (decodeCommand w = .error .reservedNonzero →
      ∃ t, act (.command k w) s = .next t ∧ Faulted { s with cmdPort := k } t k .reservedNonzero)

/-! ### A step -/

/-- A decoded command word placed on an IDLE port is performed, on that port, in the step it is placed (R107). -/
def Obligations.StepRunsThePlacedCommand : Prop :=
  ∀ (s : State) (k : Nat) (x : Port) (w : Word) (i : Instr), s.port? k = some x → x.state = .idle → decodeCommand w = .ok i →
    act (.command k w) s = exec i { s with cmdPort := k }

/-- A decoded event word is performed in the step it is delivered (R112). -/
def Obligations.StepRunsTheDeliveredEvent : Prop :=
  ∀ (s : State) (w : EventWord) (i : Instr), decodeEvent w = .ok i → act (.event w) s = exec i s

/-- What the environment may not do is refused by name. The rules say what it may not do: a command on a port the instance lacks or
that is not IDLE (R8, R107), an answer nobody waits for (R360); for an event of KIND 3 R182 says that a model refuses it. That the
others are refusals is the model's choice: log 6 for the ports, log 11 for the answer, log 13 for KIND 0 or 2 with nonzero DATA. -/
def Obligations.EnvironmentMisuseIsRefused : Prop :=
  ∀ (s : State) (k : Nat) (w : Word) (e : EventWord) (y : Word),
    (s.cfg.nCmdPorts ≤ k → act (.command k w) s = .refused .noSuchPort) ∧
    (∀ x, s.port? k = some x → x.state ≠ .idle → act (.command k w) s = .refused .portNotIdle) ∧
    (decodeEvent e = .error .reservedEvent → act (.event e) s = .refused .reservedEvent) ∧
    (s.allPorts (fun _ x => x.state.awaitsCollaborator = false) → act (.answer y) s = .refused .answerWithoutCall)

/-! ### Buffer pool commands -/

/-- CheckBuf (R139): an index the pool lacks, a FREE buffer, a buffer of another owner. -/
def Obligations.GuardedCommandsFaultOnBuffersNotOwned : Prop :=
  ∀ (s : State) (c : Instr) (p : Pool) (i : Nat) (onFree : Cause), guardedBuffer? c = some (p, i, onFree) →
    (s.poolN p ≤ i → ∃ t, exec c s = .next t ∧ Faulted s t s.cmdPort .invalidId) ∧
    (∀ b, s.buf? p i = some b →
      (b.owner = .free → ∃ t, exec c s = .next t ∧ Faulted s t s.cmdPort onFree) ∧
      (b.owner = .receiver ∨ b.owner = .queue ∨ b.owner = .transmitter →
        ∃ t, exec c s = .next t ∧ Faulted s t s.cmdPort .notOwned))

/-- ALLOC (R131, R130): BAD_RESERVE, EXHAUSTED, or the lowest free buffer with exactly `r` bytes of header room. -/
def Obligations.AllocTakesTheLowestFreeBuffer : Prop :=
  ∀ (s : State) (p : Pool) (r : Nat), s.Shaped →
    (s.cap p < r → ∃ t, exec (.alloc p r) s = .next t ∧ Faulted s t s.cmdPort .badReserve) ∧
    (r ≤ s.cap p → (∀ i < s.poolN p, s.isFree p i = false) →
      ∃ t, exec (.alloc p r) s = .next t ∧ OnlyResponded s t s.cmdPort 0x01#8 0#32) ∧
    (∀ i b, r ≤ s.cap p → s.buf? p i = some b → b.owner = .free → (∀ j < i, s.isFree p j = false) →
      ∃ t, ∃ h : Half, ∃ v : Word, exec (.alloc p r) s = .next t ∧ h.toNat = r ∧ v.toNat = i ∧ SameRegisters s t ∧
        OnlyTags s t p i (.client, h, 0#16, 0#8, 0#8) ∧ SameBytes s t ∧ Responded s t s.cmdPort 0x00#8 v)

/-- RELEASE of a CLIENT-owned buffer (R132): FREE, all else of it stale. -/
def Obligations.ReleaseFreesTheBuffer : Prop :=
  ∀ (s : State) (p : Pool) (i : Nat) (b : Buffer), s.buf? p i = some b → b.owner = .client →
    ∃ t, exec (.release p i) s = .next t ∧ SameRegisters s t ∧
      OnlyTags s t p i (.free, b.head, b.len, b.chan, b.src) ∧ SameBytes s t ∧ Responded s t s.cmdPort 0x00#8 0#32

/-- BUF_ADD (R133): BUF_OVERFLOW at a full buffer, else one byte at the tail. -/
def Obligations.BufAddAppendsOneByte : Prop :=
  ∀ (s : State) (p : Pool) (i : Nat) (v : Byte) (b : Buffer), s.Shaped → s.buf? p i = some b → b.owner = .client → b.data.wf →
    (s.cap p ≤ b.head.toNat + b.len.toNat → ∃ t, exec (.bufAdd p i v) s = .next t ∧ Faulted s t s.cmdPort .bufOverflow) ∧
    (b.head.toNat + b.len.toNat < s.cap p →
      ∃ t, ∃ l : Half, exec (.bufAdd p i v) s = .next t ∧ l.toNat = b.len.toNat + 1 ∧ SameRegisters s t ∧
        OnlyTags s t p i (.client, b.head, l, b.chan, b.src) ∧ OnlyByte s t p i (b.head.toNat + b.len.toNat) v ∧
        Responded s t s.cmdPort 0x00#8 0#32)

/-- BUF_PULL (R134): BUF_UNDERFLOW, or the front advanced by `n`. -/
def Obligations.BufPullConsumesFromTheFront : Prop :=
  ∀ (s : State) (p : Pool) (i n : Nat) (b : Buffer), s.Shaped → s.buf? p i = some b → b.owner = .client →
    b.head.toNat + b.len.toNat ≤ s.cap p →
    (b.len.toNat < n → ∃ t, exec (.bufPull p i n) s = .next t ∧ Faulted s t s.cmdPort .bufUnderflow) ∧
    (n ≤ b.len.toNat →
      ∃ t, ∃ h l : Half, exec (.bufPull p i n) s = .next t ∧ h.toNat = b.head.toNat + n ∧ l.toNat = b.len.toNat - n ∧
        SameRegisters s t ∧ OnlyTags s t p i (.client, h, l, b.chan, b.src) ∧ SameBytes s t ∧
        Responded s t s.cmdPort 0x00#8 0#32)

/-- BUF_RD (R135): OUT_OF_RANGE, or byte `o` of the used region, zero-extended. -/
def Obligations.BufRdAnswersTheByte : Prop :=
  ∀ (s : State) (p : Pool) (i o : Nat) (b : Buffer), s.buf? p i = some b → b.owner = .client →
    b.head.toNat + b.len.toNat ≤ s.cap p →
    (b.len.toNat ≤ o → ∃ t, exec (.bufRd p i o) s = .next t ∧ Faulted s t s.cmdPort .outOfRange) ∧
    (o < b.len.toNat →
      ∃ t, ∃ v : Byte, ∃ y : Word, exec (.bufRd p i o) s = .next t ∧ s.bufRead? p i (b.head.toNat + o) = some v ∧
        y.toNat = v.toNat ∧ OnlyResponded s t s.cmdPort 0x00#8 y)

/-- BUF_INFO (R136): head in bits [31:16], len in bits [15:0]. -/
def Obligations.BufInfoAnswersTheCursors : Prop :=
  ∀ (s : State) (p : Pool) (i : Nat) (b : Buffer), s.buf? p i = some b → b.owner = .client →
    ∃ t, ∃ y : Word, exec (.bufInfo p i) s = .next t ∧ y.extractLsb 31 16 = b.head ∧ y.extractLsb 15 0 = b.len ∧
      OnlyResponded s t s.cmdPort 0x00#8 y

/-- BUF_HDR (R137): WRONG_POOL before any other check, else src in bits [15:8] and chan in bits [7:0]. -/
def Obligations.BufHdrAnswersTheLatchedHeader : Prop :=
  ∀ (s : State) (i : Nat),
    (∃ t, exec (.bufHdr .tx i) s = .next t ∧ Faulted s t s.cmdPort .wrongPool) ∧
    (∀ b, s.buf? .rx i = some b → b.owner = .client →
      ∃ t, ∃ y : Word, exec (.bufHdr .rx i) s = .next t ∧ y.extractLsb 31 16 = 0#16 ∧ y.extractLsb 15 8 = b.src ∧
        y.extractLsb 7 0 = b.chan ∧ OnlyResponded s t s.cmdPort 0x00#8 y)

/-! ### Dispatch queue -/

/-- DEQ (R241, R242): WRONG_PORT; a hold on an empty FIFO; else the oldest entry, its buffer passing to CLIENT. -/
def Obligations.DeqTakesTheOldestBuffer : Prop :=
  ∀ s : State,
    (s.cmdPort ≠ 0 → ∃ t, exec .deq s = .next t ∧ Faulted s t s.cmdPort .wrongPort) ∧
    (s.cmdPort = 0 → s.q = [] →
      ∃ t, exec .deq s = .next t ∧ SameRegisters s t ∧ SameTags s t ∧ SameBytes s t ∧
        OnlyPort s t 0 (fun x => { x with state := .holdDeq })) ∧
    (∀ (i : BitVec 5) (rest : List (BitVec 5)) (b : Buffer), s.cmdPort = 0 → s.q = i :: rest → s.buf? .rx i.toNat = some b →
      ∃ t, ∃ y : Word, exec .deq s = .next t ∧ y.toNat = i.toNat ∧ SameRegisters { s with q := rest } t ∧
        OnlyTags s t .rx i.toNat (.client, b.head, b.len, b.chan, b.src) ∧ SameBytes s t ∧
        OnlyPort s t 0 (fun _ => { state := .idle, rspCode := 0x00#8, rspValue := y }))

/-- A held DEQ (R242): a later step of port 0 completes it once the FIFO is non-empty. -/
def Obligations.HeldDeqCompletesWhenAFrameIsQueued : Prop :=
  ∀ (s : State) (x : Port) (i : BitVec 5) (rest : List (BitVec 5)) (b : Buffer), s.port? 0 = some x → x.state = .holdDeq →
    s.q = i :: rest → s.buf? .rx i.toNat = some b →
    ∃ t, ∃ y : Word, act (.port 0) s = .next t ∧ y.toNat = i.toNat ∧ SameRegisters { s with q := rest } t ∧
      OnlyTags s t .rx i.toNat (.client, b.head, b.len, b.chan, b.src) ∧ SameBytes s t ∧
      OnlyPort s t 0 (fun _ => { state := .idle, rspCode := 0x00#8, rspValue := y })

/-! ### Transmit framer -/

/-- TX in the step it is placed (R210 part 1): WRONG_POOL, then INVALID_ID, then a hold while the framer is busy. -/
def Obligations.TxIsCheckedOrHeldWhenPlaced : Prop :=
  ∀ (s : State) (i : Nat),
    (∃ t, exec (.tx .rx i) s = .next t ∧ Faulted s t s.cmdPort .wrongPool) ∧
    (s.cfg.txPoolN ≤ i → ∃ t, exec (.tx .tx i) s = .next t ∧ Faulted s t s.cmdPort .invalidId) ∧
    (i < s.cfg.txPoolN → s.txBusy = true →
      ∃ t, exec (.tx .tx i) s = .next t ∧ SameRegisters s t ∧ SameTags s t ∧ SameBytes s t ∧
        OnlyPort s t s.cmdPort (fun x => { x with state := .holdTx i }))

/-- The outcome `o` is the acceptance, with the framer idle, of a TX of buffer `i` from port `k`: in the step it is placed, or in
a later step of a port that holds it (R210, R214). -/
def Obligations.TxAcceptedOnBothRoutes : Prop :=
  ∀ (s : State) (k i : Nat) (b : Buffer) (o : Out), s.Shaped → s.txBusy = false → s.buf? .tx i = some b →
    (o = exec (.tx .tx i) s ∧ k = s.cmdPort ∧ k < s.cfg.nCmdPorts) ∨
      (o = act (.port k) s ∧ ∃ x, s.port? k = some x ∧ x.state = .holdTx i) →
    (b.owner ≠ .client →
      ∃ t, o = .next t ∧ FaultRecorded s t .notOwned ∧
        OnlyPort s t k (fun _ => { state := .idle, rspCode := 0x16#8, rspValue := 0#32 })) ∧
    (b.owner = .client → b.head.toNat < 4 →
      ∃ t, o = .next t ∧ FaultRecorded s t .noHeadroom ∧
        OnlyPort s t k (fun _ => { state := .idle, rspCode := 0x18#8, rspValue := 0#32 })) ∧
    (b.owner = .client → 4 ≤ b.head.toNat → b.head.toNat + b.len.toNat ≤ s.cap .tx → b.data.wf →
      ∃ t, ∃ h l : Half, ∃ idx : BitVec 5, ∃ port : BitVec 8, o = .next t ∧ h.toNat = b.head.toNat - 4 ∧
        l.toNat = b.len.toNat + 4 ∧ idx.toNat = i ∧ port.toNat = k ∧
        SameRegisters { s with txBusy := true, txIdx := idx, txPos := 0#16, txPort := port } t ∧
        OnlyTags s t .tx i (.transmitter, h, l, b.chan, b.src) ∧
        OnlyPort s t k (fun x => { x with state := .txWait }) ∧
        (∀ p' i' j', t.bufRead? p' i' j' =
          if p' = .tx ∧ i' = i ∧ h.toNat ≤ j' ∧ j' < b.head.toNat then
            [b.len.extractLsb 7 0, b.len.extractLsb 15 8, 0#8, 0#8][j' - h.toNat]?
          else s.bufRead? p' i' j'))

/-- The framer's byte step (R213), with the completion at the frame's last byte (R214), and its hold while the UART is not
ready (00_scope.md R10: not enabled); that the hold is a step that changes nothing is the model's choice (log 8). -/
def Obligations.FramerSendsTheNextByte : Prop :=
  ∀ (s : State) (b : Buffer), s.txBusy = true → s.buf? .tx s.txIdx.toNat = some b →
    b.head.toNat + b.len.toNat ≤ s.cap .tx →
    (s.txPos.toNat + 1 < b.len.toNat →
      ∃ t, ∃ v : Byte, ∃ n : Half, act (.framer true) s = .next t ∧
        s.bufRead? .tx s.txIdx.toNat (b.head.toNat + s.txPos.toNat) = some v ∧ n.toNat = s.txPos.toNat + 1 ∧
        SameRegisters { s with uartTx := s.uartTx ++ [v], txPos := n } t ∧ SameTags s t ∧ SameBytes s t ∧ SamePorts s t) ∧
    (s.txPos.toNat + 1 = b.len.toNat →
      ∃ t, ∃ v : Byte, act (.framer true) s = .next t ∧
        s.bufRead? .tx s.txIdx.toNat (b.head.toNat + s.txPos.toNat) = some v ∧
        SameRegisters { s with uartTx := s.uartTx ++ [v], txBusy := false, txIdx := 0#5, txPos := 0#16, txPort := 0#8 } t ∧
        OnlyTags s t .tx s.txIdx.toNat (.free, b.head, b.len, b.chan, b.src) ∧ SameBytes s t ∧
        OnlyPort s t s.txPort.toNat (fun _ => { state := .idle, rspCode := 0x00#8, rspValue := 0#32 })) ∧
    act (.framer false) s = .next s

/-- A scheduled step of an agent that holds changes nothing. The rules say who holds: the framer without a frame or without a ready
UART (R213), a held TX while the framer is busy (R210), a held DEQ while the FIFO is empty (R241), a port that waits for the framer
or for the collaborator (R214, R262). R10 says only that such a step is not enabled and the agent stays where it is: that it is a
step, and leaves the state, is the model's choice (log 8). -/
def Obligations.HoldsChangeNothing : Prop :=
  ∀ s : State,
    (∀ ready, s.txBusy = false ∨ ready = false → act (.framer ready) s = .next s) ∧
    (∀ k x, s.port? k = some x →
      (∃ i, x.state = .holdTx i ∧ s.txBusy = true) ∨ (x.state = .holdDeq ∧ s.q = []) ∨ x.state = .txWait ∨
        x.state = .initDisable ∨ x.state = .initEnable →
      act (.port k) s = .next s)

/-- A whole transmission (R210 to R215): TX of a buffer holding `payload`, placed on an idle port with the framer idle, and one
framer step for each byte of the frame: the UART gains exactly the header and the payload, in order, and the port its OK. -/
def Obligations.TransmissionSendsHeaderAndPayload : Prop :=
  ∀ (s : State) (k i : Nat) (x : Port) (b : Buffer) (payload : List Byte) (rest : List Action), s.Inv → s.txBusy = false →
    s.port? k = some x → x.state = .idle → s.buf? .tx i = some b → b.owner = .client → 4 ≤ b.head.toNat →
    payload.length = b.len.toNat → (∀ j < b.len.toNat, s.bufRead? .tx i (b.head.toNat + j) = payload[j]?) →
    s.schedule = .command k (commandWord 0x20#8 .tx i 0#16) :: framerSteps (4 + payload.length) ++ rest →
    ∃ t, core.run (1 + (4 + payload.length)) s = .next t ∧
      t.uartTx = s.uartTx ++ frameBytes 0#8 0#8 payload ∧ t.txBusy = false ∧
      (∃ b', t.buf? .tx i = some b' ∧ b'.owner = .free) ∧
      t.port? k = some { state := .idle, rspCode := 0x00#8, rspValue := 0#32 } ∧
      SameReceiver s t ∧ t.q = s.q ∧ t.uartRx = s.uartRx ∧ SameFault s t ∧ t.schedule = rest

/-! ### Frame receiver -/

/-- A header byte that is not the fourth (R172). -/
def Obligations.HeaderByteIsAccumulated : Prop :=
  ∀ (s : State) (v : Byte) (rest : List Byte), s.rxEn = true → s.uartRx = v :: rest → s.rxState = .awaitHdr →
    s.hdrCnt.toNat < 3 →
    ∃ t, ∃ n : BitVec 2, exec (.rxByte v) s = .next t ∧ n.toNat = s.hdrCnt.toNat + 1 ∧
      t.hdrBuf.bytes = s.hdrBuf.bytes.set s.hdrCnt.toNat v ∧
      SameRegisters { s with uartRx := rest, hdrCnt := n, hdrBuf := t.hdrBuf } t ∧ SameTags s t ∧ SameBytes s t ∧ SamePorts s t

/-- The fourth header byte of a frame that is dropped (R173, R174, R177, R179): OVERSIZED first, without an allocation; else
EXHAUSTED; the declared bytes remain to be discarded. -/
def Obligations.HeaderOfADroppedFrame : Prop :=
  ∀ (s : State) (v : Byte) (rest : List Byte) (len : Half), s.rxEn = true → s.uartRx = v :: rest → s.rxState = .awaitHdr →
    s.hdrCnt = 3#2 → len.toNat = s.hdrBuf.b0.toNat + 256 * s.hdrBuf.b1.toNat →
    (s.cfg.rxBufCap < len.toNat →
      ∃ t, exec (.rxByte v) s = .next t ∧
        SameRegisters { s with uartRx := rest, hdrCnt := 0#2, hdrBuf := { s.hdrBuf with b3 := v }, rxState := .discard, rxRemaining := len, diagLog := s.diagLog ++ [⟨2#8, len⟩] } t ∧
        SameTags s t ∧ SameBytes s t ∧ SamePorts s t) ∧
    (len.toNat ≤ s.cfg.rxBufCap → (∀ i < s.cfg.rxPoolN, s.isFree .rx i = false) →
      ∃ t, exec (.rxByte v) s = .next t ∧
        SameRegisters { s with uartRx := rest, hdrCnt := 0#2, hdrBuf := { s.hdrBuf with b3 := v }, rxState := if len.toNat = 0 then .awaitHdr else .discard, rxRemaining := if len.toNat = 0 then s.rxRemaining else len, diagLog := s.diagLog ++ [⟨1#8, len⟩] } t ∧
        SameTags s t ∧ SameBytes s t ∧ SamePorts s t)

/-- The fourth header byte of a frame that is stored (R173 to R176): the lowest free buffer takes channel and source; a frame of
length 0 is enqueued at once, any other starts its payload. -/
def Obligations.HeaderOfAStoredFrame : Prop :=
  ∀ (s : State) (v : Byte) (rest : List Byte) (len : Half) (i : Nat) (b : Buffer), s.Shaped → s.rxEn = true →
    s.uartRx = v :: rest → s.rxState = .awaitHdr → s.hdrCnt = 3#2 →
    len.toNat = s.hdrBuf.b0.toNat + 256 * s.hdrBuf.b1.toNat → len.toNat ≤ s.cfg.rxBufCap →
    s.buf? .rx i = some b → b.owner = .free → (∀ j < i, s.isFree .rx j = false) →
    (len.toNat = 0 →
      ∃ t, ∃ x : BitVec 5, exec (.rxByte v) s = .next t ∧ x.toNat = i ∧
        SameRegisters { s with uartRx := rest, hdrCnt := 0#2, hdrBuf := { s.hdrBuf with b3 := v }, q := s.q ++ [x] } t ∧
        OnlyTags s t .rx i (.queue, 0#16, 0#16, s.hdrBuf.b2, v) ∧ SameBytes s t ∧ SamePorts s t) ∧
    (1 ≤ len.toNat →
      ∃ t, ∃ x : BitVec 5, exec (.rxByte v) s = .next t ∧ x.toNat = i ∧
        SameRegisters { s with uartRx := rest, hdrCnt := 0#2, hdrBuf := { s.hdrBuf with b3 := v }, rxState := .awaitPayload, rxRemaining := len, rxBufIdx := x } t ∧
        OnlyTags s t .rx i (.receiver, 0#16, 0#16, s.hdrBuf.b2, v) ∧ SameBytes s t ∧ SamePorts s t)

/-- A payload byte (R178): stored at the tail; at the last one the buffer is enqueued. -/
def Obligations.PayloadByteIsStoredAtTheTail : Prop :=
  ∀ (s : State) (v : Byte) (rest : List Byte) (b : Buffer), s.Shaped → s.rxEn = true → s.uartRx = v :: rest →
    s.rxState = .awaitPayload → s.buf? .rx s.rxBufIdx.toNat = some b → b.data.wf →
    b.head.toNat + b.len.toNat < s.cfg.rxBufCap →
    (2 ≤ s.rxRemaining.toNat →
      ∃ t, ∃ l n : Half, exec (.rxByte v) s = .next t ∧ l.toNat = b.len.toNat + 1 ∧ n.toNat + 1 = s.rxRemaining.toNat ∧
        SameRegisters { s with uartRx := rest, rxRemaining := n } t ∧
        OnlyTags s t .rx s.rxBufIdx.toNat (b.owner, b.head, l, b.chan, b.src) ∧
        OnlyByte s t .rx s.rxBufIdx.toNat (b.head.toNat + b.len.toNat) v ∧ SamePorts s t) ∧
    (s.rxRemaining.toNat = 1 →
      ∃ t, ∃ l : Half, exec (.rxByte v) s = .next t ∧ l.toNat = b.len.toNat + 1 ∧
        SameRegisters { s with uartRx := rest, rxRemaining := 0#16, rxBufIdx := 0#5, rxState := .awaitHdr, q := s.q ++ [s.rxBufIdx] } t ∧
        OnlyTags s t .rx s.rxBufIdx.toNat (.queue, b.head, l, b.chan, b.src) ∧
        OnlyByte s t .rx s.rxBufIdx.toNat (b.head.toNat + b.len.toNat) v ∧ SamePorts s t)

/-- A discarded byte (R180): only the count changes, and at its end the receiver awaits a header. -/
def Obligations.DiscardedByteIsOnlyCounted : Prop :=
  ∀ (s : State) (v : Byte) (rest : List Byte), s.rxEn = true → s.uartRx = v :: rest → s.rxState = .discard →
    1 ≤ s.rxRemaining.toNat →
    ∃ t, ∃ n : Half, exec (.rxByte v) s = .next t ∧ n.toNat + 1 = s.rxRemaining.toNat ∧
      SameRegisters { s with uartRx := rest, rxRemaining := n, rxState := if n.toNat = 0 then .awaitHdr else .discard } t ∧
      SameTags s t ∧ SameBytes s t ∧ SamePorts s t

/-- RX_BYTE changes nothing while the receiver is disabled or no byte waits. R170 says that the receiver then has no step: that a
delivered RX_BYTE is a step, and leaves the state, is the model's choice (log 8). -/
def Obligations.ReceiverHoldsWithoutEnableOrByte : Prop :=
  ∀ (s : State) (d : Byte), s.rxEn = false ∨ s.uartRx = [] →
    exec (.rxByte d) s = .next s ∧ act (.event (eventWord 1#2 d)) s = .next s

/-- What RX_BYTE does depends on the byte at the front of `uart_rx`, never on the DATA of the event word (the model's choice,
log 7: R112 says DATA is that byte, and R170 does not consult it). -/
def Obligations.ReceiverTakesTheFrontByteWhateverData : Prop :=
  ∀ (s : State) (d v : Byte) (rest : List Byte), s.rxEn = true → s.uartRx = v :: rest →
    act (.event (eventWord 1#2 d)) s = exec (.rxByte v) s ∧ exec (.rxByte d) s = receiveByte v { s with uartRx := rest }

/-- TX_READY (R181) and SPURIOUS (R182) change nothing in any state. -/
def Obligations.IgnoredEventsChangeNothing : Prop :=
  ∀ s : State, exec .txReady s = .next s ∧ exec .spurious s = .next s ∧
    act (.event 0x200#10) s = .next s ∧ act (.event 0x000#10) s = .next s

/-- A whole frame received (R170 to R178): fed to a receiver that awaits a header, with a free buffer, the frame of `payload`
leaves the lowest free buffer at the FIFO's tail, holding exactly the payload, its channel and its source. -/
def Obligations.ReceiverDeliversTheFrame : Prop :=
  ∀ (s : State) (chan src : Byte) (payload later : List Byte) (i : Nat) (b : Buffer) (rest : List Action), s.Inv →
    s.rxEn = true → s.rxState = .awaitHdr → s.hdrCnt = 0#2 → payload.length ≤ s.cfg.rxBufCap →
    s.buf? .rx i = some b → b.owner = .free → (∀ j < i, s.isFree .rx j = false) →
    s.uartRx = frameBytes chan src payload ++ later → s.schedule = rxEvents (frameBytes chan src payload) ++ rest →
    ∃ t, ∃ x : BitVec 5, ∃ l : Half, core.run (4 + payload.length) s = .next t ∧ x.toNat = i ∧ l.toNat = payload.length ∧
      t.uartRx = later ∧ t.q = s.q ++ [x] ∧ t.rxState = .awaitHdr ∧ t.hdrCnt = 0#2 ∧
      OnlyTags s t .rx i (.queue, 0#16, l, chan, src) ∧
      (∀ j < payload.length, t.bufRead? .rx i j = payload[j]?) ∧
      (∀ p' i' j', ¬(p' = .rx ∧ i' = i) → t.bufRead? p' i' j' = s.bufRead? p' i' j') ∧
      SamePorts s t ∧ SameFramer s t ∧ SameFault s t ∧ t.diagLog = s.diagLog ∧ t.uartTx = s.uartTx ∧ t.schedule = rest

/-- A whole frame dropped (R174, R177, R179, R180, R310, R311): a frame longer than a receive buffer, or one that finds none
free, is drained byte for byte; one diagnostic record is all that remains of it. -/
def Obligations.DroppedFrameIsDrainedByteForByte : Prop :=
  ∀ (s : State) (chan src : Byte) (payload later : List Byte) (l : Half) (rest : List Action), s.Inv →
    s.rxEn = true → s.rxState = .awaitHdr → s.hdrCnt = 0#2 → l.toNat = payload.length →
    (s.cfg.rxBufCap < payload.length ∨ ∀ i < s.cfg.rxPoolN, s.isFree .rx i = false) →
    s.uartRx = frameBytes chan src payload ++ later → s.schedule = rxEvents (frameBytes chan src payload) ++ rest →
    ∃ t, core.run (4 + payload.length) s = .next t ∧ t.uartRx = later ∧ t.q = s.q ∧ t.rxState = .awaitHdr ∧ t.hdrCnt = 0#2 ∧
      t.diagLog = s.diagLog ++ [⟨if s.cfg.rxBufCap < payload.length then 2#8 else 1#8, l⟩] ∧
      SameTags s t ∧ SameBytes s t ∧ SamePorts s t ∧ SameFramer s t ∧ SameFault s t ∧ t.schedule = rest

/-! ### Control -/

/-- NOP (R260). -/
def Obligations.NopOnlyResponds : Prop :=
  ∀ s : State, ∃ t, exec .nop s = .next t ∧ OnlyResponded s t s.cmdPort 0x00#8 0#32

/-- INIT part 1 (R261): ALREADY_INIT, BIND_FAIL, or the call of `disable()`. -/
def Obligations.InitStartsTheSequence : Prop :=
  ∀ s : State,
    (s.initPhase ≠ .uninit → ∃ t, exec .init s = .next t ∧ Faulted s t s.cmdPort .alreadyInit) ∧
    (s.initPhase = .uninit → s.uartBound = false →
      ∃ t, exec .init s = .next t ∧ OnlyResponded s t s.cmdPort 0x03#8 0#32) ∧
    (s.initPhase = .uninit → s.uartBound = true →
      ∃ t, exec .init s = .next t ∧ SameRegisters { s with initPhase := .disabling } t ∧ SameTags s t ∧ SameBytes s t ∧
        OnlyPort s t s.cmdPort (fun x => { x with state := .initDisable }))

/-- INIT part 2 (R263): `disable()` answers `y`; a failure is returned unchanged and INIT may be retried, a success drains the
UART, enables the receiver and calls `enable()`. -/
def Obligations.InitAnswerToDisable : Prop :=
  ∀ (s : State) (k : Nat) (x : Port) (y : Word), s.InitAgrees → s.port? k = some x → x.state = .initDisable →
    (y ≠ 0#32 →
      ∃ t, act (.answer y) s = .next t ∧ SameRegisters { s with initPhase := .uninit } t ∧ SameTags s t ∧ SameBytes s t ∧
        OnlyPort s t k (fun _ => { state := .idle, rspCode := 0x02#8, rspValue := y })) ∧
    (y = 0#32 →
      ∃ t, act (.answer y) s = .next t ∧ SameRegisters { s with uartRx := [], rxEn := true, initPhase := .enabling } t ∧
        SameTags s t ∧ SameBytes s t ∧ OnlyPort s t k (fun x => { x with state := .initEnable }))

/-- INIT part 3 (R264): `enable()` answers `y`; the receiver stays enabled whatever the answer. -/
def Obligations.InitAnswerToEnable : Prop :=
  ∀ (s : State) (k : Nat) (x : Port) (y : Word), s.InitAgrees → s.port? k = some x → x.state = .initEnable →
    ∃ t, act (.answer y) s = .next t ∧ SameRegisters { s with initPhase := .ready } t ∧ SameTags s t ∧ SameBytes s t ∧
      OnlyPort s t k (fun _ => { state := .idle, rspCode := if y = 0#32 then 0x00#8 else 0x02#8, rspValue := y })

/-- CSR_RD (R267, R36): ILLEGAL_CSR above 0x0E, else the CSR's value. -/
def Obligations.CsrRdAnswersTheCsr : Prop :=
  ∀ (s : State) (c : Nat),
    (0x0E < c → ∃ t, exec (.csrRd c) s = .next t ∧ Faulted s t s.cmdPort .illegalCsr) ∧
    (c ≤ 0x0E → ∃ t, ∃ y, s.csr? c = some y ∧ exec (.csrRd c) s = .next t ∧ OnlyResponded s t s.cmdPort 0x00#8 y)

/-- The receiver's CSRs bit by bit (R37 to R40), INIT_PHASE and STATE with the numbers of R33 and R22. -/
def Obligations.ReceiverCsrsShowTheReceiver : Prop :=
  ∀ s : State, ∃ c0 c1 c2 c3 c4 : Word,
    (s.csr? 0x00 = some c0 ∧ c0.extractLsb 0 0 = BitVec.ofBool s.rxEn ∧ c0.extractLsb 31 3 = 0 ∧
      c0.extractLsb 2 1 = match s.initPhase with
        | .uninit => 0
        | .disabling => 1
        | .enabling => 2
        | .ready => 3) ∧
    (s.csr? 0x01 = some c1 ∧ c1.extractLsb 3 2 = s.hdrCnt ∧ c1.extractLsb 31 4 = 0 ∧
      c1.extractLsb 1 0 = match s.rxState with
        | .awaitHdr => 0
        | .awaitPayload => 1
        | .discard => 2) ∧
    (s.csr? 0x02 = some c2 ∧ c2.extractLsb 15 0 = s.rxRemaining ∧ c2.extractLsb 31 16 = 0) ∧
    (s.csr? 0x03 = some c3 ∧ (c3.extractLsb 15 0).toNat = s.hdrBuf.b0.toNat + 256 * s.hdrBuf.b1.toNat ∧
      c3.extractLsb 31 16 = 0) ∧
    (s.csr? 0x04 = some c4 ∧ c4.extractLsb 7 0 = s.hdrBuf.b2 ∧ c4.extractLsb 15 8 = s.hdrBuf.b3 ∧ c4.extractLsb 31 16 = 0)

/-- The queue's and the framer's CSRs bit by bit (R42). -/
def Obligations.QueueAndFramerCsrsShowThem : Prop :=
  ∀ s : State, s.q.length ≤ 32 → ∃ c8 c9 cA cB : Word,
    (s.csr? 0x08 = some c8 ∧ (c8.extractLsb 5 0).toNat = s.q.length ∧ c8.extractLsb 31 6 = 0) ∧
    (s.csr? 0x09 = some c9 ∧ c9.extractLsb 30 5 = 0 ∧
      (s.q = [] → c9.extractLsb 4 0 = 0 ∧ c9.extractLsb 31 31 = 0) ∧
      (∀ i rest, s.q = i :: rest → c9.extractLsb 4 0 = i ∧ c9.extractLsb 31 31 = 1)) ∧
    (s.csr? 0x0A = some cA ∧ cA.extractLsb 0 0 = BitVec.ofBool s.txBusy ∧ cA.extractLsb 12 8 = s.txIdx ∧
      cA.extractLsb 23 16 = s.txPort ∧ cA.extractLsb 7 1 = 0 ∧ cA.extractLsb 15 13 = 0 ∧ cA.extractLsb 31 24 = 0) ∧
    (s.csr? 0x0B = some cB ∧ cB.extractLsb 15 0 = s.txPos ∧ (s.txBusy = false → cB.extractLsb 31 16 = 0) ∧
      (∀ b, s.txBusy = true → s.buf? .tx s.txIdx.toNat = some b → cB.extractLsb 31 16 = b.len))

/-- The FAULT register's CSR and the constants of the instance, bit by bit; no step changes the constants (R43). -/
def Obligations.FaultAndConfigCsrsShowThem : Prop :=
  ∀ s : State, s.cfg.Valid → ∃ cC cD cE : Word,
    (s.csr? 0x0C = some cC ∧ cC.extractLsb 7 0 = s.faultCause ∧ cC.extractLsb 8 8 = BitVec.ofBool s.faultValid ∧
      cC.extractLsb 31 9 = 0) ∧
    (s.csr? 0x0D = some cD ∧ (cD.extractLsb 7 0).toNat = s.cfg.rxPoolN ∧ (cD.extractLsb 15 8).toNat = s.cfg.txPoolN ∧
      (cD.extractLsb 23 16).toNat = s.cfg.nCmdPorts ∧ (cD.extractLsb 31 24).toNat = 4) ∧
    (s.csr? 0x0E = some cE ∧ (cE.extractLsb 15 0).toNat = s.cfg.rxBufCap ∧ (cE.extractLsb 31 16).toNat = s.cfg.txBufCap) ∧
    ∀ t, step s = .next t → t.csr? 0x0D = s.csr? 0x0D ∧ t.csr? 0x0E = s.csr? 0x0E

/-- The buffer being filled, and the free maps bit by bit (R41): bit i is 1 exactly if buffer i exists and is FREE. -/
def Obligations.BufferCsrsShowTheCurrentAndTheFreeBuffers : Prop :=
  ∀ s : State, ∃ c5 c6 c7 : Word, s.csr? 0x06 = some c6 ∧ s.csr? 0x07 = some c7 ∧
    (s.csr? 0x05 = some c5 ∧ c5.extractLsb 4 0 = s.rxBufIdx ∧ c5.extractLsb 30 5 = 0 ∧
      c5.extractLsb 31 31 = BitVec.ofBool (s.rxState = .awaitPayload)) ∧
    ∀ i < 32,
      (c6.getLsbD i = true ↔ ∃ b, s.buf? .rx i = some b ∧ b.owner = .free) ∧
      (c7.getLsbD i = true ↔ ∃ b, s.buf? .tx i = some b ∧ b.owner = .free)

/-! ### Reset and the environment -/

/-- Reset (R340, R59): from any state of any instance, every block field at its value of the table, every byte of a buffer some
byte, the UART's streams untouched. -/
def Obligations.ResetSetsEveryBlockField : Prop :=
  ∀ s : State, ∃ t, act .reset s = .next t ∧
    t.rxEn = false ∧ t.rxState = .awaitHdr ∧ t.hdrCnt = 0#2 ∧ t.hdrBuf.bytes = [0#8, 0#8, 0#8, 0#8] ∧ t.rxRemaining = 0#16 ∧
    t.rxBufIdx = 0#5 ∧ t.q = [] ∧ t.txBusy = false ∧ t.txIdx = 0#5 ∧ t.txPos = 0#16 ∧ t.txPort = 0#8 ∧ t.initPhase = .uninit ∧
    t.faultValid = false ∧ t.faultCause = 0#8 ∧ t.diagLog = [] ∧ t.uartRx = s.uartRx ∧ t.uartTx = s.uartTx ∧ t.cfg = s.cfg ∧
    (∀ p i, i < s.poolN p →
      (t.buf? p i).map Buffer.tags = some (.free, 0#16, 0#16, 0#8, 0#8) ∧
      ∀ j < s.cap p, ∃ v, t.bufRead? p i j = some v) ∧
    (∀ k < s.cfg.nCmdPorts, t.port? k = some { state := .idle, rspCode := 0#8, rspValue := 0#32 })

/-- A byte that arrives is appended, or lost where the UART's FIFO is full (R361); nothing else changes. -/
def Obligations.ArrivingByteIsAppendedOrLost : Prop :=
  ∀ (s : State) (v : Byte),
    (∀ d, s.cfg.uartRxFifoDepth = some d → d ≤ s.uartRx.length → act (.arrive v) s = .next s) ∧
    ((∀ d, s.cfg.uartRxFifoDepth = some d → s.uartRx.length < d) →
      act (.arrive v) s = .next { s with uartRx := s.uartRx ++ [v] })

/-- The invariant holds right after reset, of every legal instance (R54 to R59). -/
def Obligations.InvariantHoldsAfterReset : Prop :=
  ∀ c : Config, c.Valid → (State.fresh c).Inv

/-! ### The whole machine -/

/-- Every step keeps the invariant (R54 to R58). -/
def Obligations.EveryStepKeepsTheInvariant : Prop :=
  ∀ s t : State, s.Inv → step s = .next t → t.Inv

/-- No step of a state with the invariant stops with a fault of the model: the rules' preconditions hold (R62, R178, R180). -/
def Obligations.NoStepFaultsUnderTheInvariant : Prop :=
  ∀ (s : State) (f : Fault), s.Inv → step s ≠ .fault f

/-- What the buffers' bytes were drawn as after reset is never seen (93_implementation_defined.md U5: "unobservable by any
command"): a step does the same whichever draw it was. -/
def Obligations.UnwrittenBytesAreNeverSeen : Prop :=
  ∀ (s : State) (g : Nat), s.Inv → s.resetNotDue →
    (∀ t, step s = .next t → step { s with drawGen := g } = .next { t with drawGen := g }) ∧
    (∀ r, step s = .refused r → step { s with drawGen := g } = .refused r)

/-- No command changes the receiver's registers, the waiting bytes or the diagnostics, whatever its outcome: not where it is
placed, not in a later step of its port (a held DEQ or TX), not in the framer's steps of a TX, and not in the later parts of INIT,
but for one (R185, R21, R263): the zero answer to `disable()` sets `rx_en` and empties `uart_rx`. -/
def Obligations.CommandsLeaveTheReceiverAlone : Prop :=
  ∀ s t : State,
    (∀ c, isEvent c = false → exec c s = .next t → SameReceiver s t ∧ t.uartRx = s.uartRx ∧ t.diagLog = s.diagLog) ∧
    (∀ a, (∃ k w, a = .command k w) ∨ (∃ k, a = .port k) ∨ (∃ ready, a = .framer ready) → act a s = .next t →
      SameReceiver s t ∧ t.uartRx = s.uartRx ∧ t.diagLog = s.diagLog) ∧
    (∀ y, act (.answer y) s = .next t →
      t.diagLog = s.diagLog ∧
      ((SameReceiver s t ∧ t.uartRx = s.uartRx) ∨
        (y = 0#32 ∧ (∃ k x, s.port? k = some x ∧ x.state = .initDisable) ∧ t.uartRx = [] ∧
          SameReceiver { s with rxEn := true } t)))

/-- No event changes a port, the framer, INIT's phase, the FAULT register, the wire output or a transmit buffer (R186, R216,
R217). -/
def Obligations.EventsLeaveTheCommandSideAlone : Prop :=
  ∀ (c : Instr) (s t : State), isEvent c = true → exec c s = .next t →
    SamePorts s t ∧ SameFramer s t ∧ t.initPhase = s.initPhase ∧ SameFault s t ∧ t.uartTx = s.uartTx ∧
    (∀ i, t.buf? .tx i = s.buf? .tx i)

/-- The FAULT register keeps the first cause until a reset (R34, R305). -/
def Obligations.FirstFaultStaysUntilReset : Prop :=
  ∀ s t : State, s.resetNotDue → step s = .next t → s.faultValid = true →
    t.faultValid = true ∧ t.faultCause = s.faultCause

/-- The response codes are those of R106, with its numbers, and no other is ever produced: responding and faulting put these
numbers on the port, after reset every port's code is one of them, and every step keeps that. -/
def Obligations.OnlyListedCodesAreProduced : Prop :=
  (∀ s t : State, s.allPorts (fun _ x => producedCode x.rspCode) → step s = .next t →
    t.allPorts (fun _ x => producedCode x.rspCode)) ∧
  (∀ c : Config, (State.fresh c).allPorts (fun _ x => producedCode x.rspCode)) ∧
  (∀ (s : State) (k : Nat) (x : Port) (v : Word) (c : Code), s.port? k = some x →
    ∃ y, (s.respond k c v).port? k = some y ∧ y.state = x.state ∧ y.rspValue = v ∧
      y.rspCode = match c with
        | .ok => 0x00#8
        | .exhausted => 0x01#8
        | .devStatus => 0x02#8
        | .bindFail => 0x03#8) ∧
  (∀ (s : State) (k : Nat) (x : Port) (c : Cause), s.port? k = some x →
    ∃ y, (s.raise k c).port? k = some y ∧ y.state = x.state ∧ y.rspValue = 0#32 ∧
      y.rspCode = match c with
        | .illegalOpcode => 0x10#8
        | .reservedNonzero => 0x11#8
        | .wrongPort => 0x12#8
        | .wrongPool => 0x13#8
        | .invalidId => 0x14#8
        | .doubleRelease => 0x15#8
        | .notOwned => 0x16#8
        | .badReserve => 0x17#8
        | .noHeadroom => 0x18#8
        | .bufOverflow => 0x19#8
        | .bufUnderflow => 0x1A#8
        | .outOfRange => 0x1B#8
        | .illegalCsr => 0x1C#8
        | .alreadyInit => 0x1D#8)

/-- A buffer's owner changes only along the sequences of R28. -/
def Obligations.OwnersChangeOnlyAlongTheLegalSequences : Prop :=
  ∀ (s t : State) (p : Pool) (i : Nat) (b b' : Buffer), s.Inv → s.resetNotDue → step s = .next t →
    s.buf? p i = some b → t.buf? p i = some b' → legalHandoff p b.owner b'.owner = true

/-- A buffer that is FREE or QUEUE has no byte touched, and its cursors only by the allocation of a FREE one (R71). -/
def Obligations.UnownedBuffersAreNotTouched : Prop :=
  ∀ (s t : State) (p : Pool) (i : Nat) (b b' : Buffer), s.Inv → s.resetNotDue → step s = .next t →
    s.buf? p i = some b → t.buf? p i = some b' → b.owner = .free ∨ b.owner = .queue →
    b'.data = b.data ∧ (b'.owner = .free ∨ b.owner = .queue → b' = { b with owner := b'.owner })

/-- The FIFO is strict (R240, R242, R243): a step leaves it, appends at its tail, or takes its head and answers it on port 0. -/
def Obligations.FifoOnlyPushesAndPops : Prop :=
  ∀ s t : State, s.Shaped → s.resetNotDue → step s = .next t →
    t.q = s.q ∨ (∃ x, t.q = s.q ++ [x]) ∨
    (∃ i, s.q = i :: t.q ∧ ∃ x, t.port? 0 = some x ∧ x.rspCode = 0x00#8 ∧ x.rspValue.toNat = i.toNat)

/-- The wire output and the diagnostic output are append-only, one entry a step at most, and only the framer writes the wire
(R35, R44, R213, R312). -/
def Obligations.OutputsAreAppendOnly : Prop :=
  ∀ s t : State, s.resetNotDue → step s = .next t →
    (t.diagLog = s.diagLog ∨ ∃ x, t.diagLog = s.diagLog ++ [x]) ∧
    (t.uartTx = s.uartTx ∨ (s.schedule.head? = some (.framer true) ∧ ∃ v, t.uartTx = s.uartTx ++ [v]))

/-- CSR_RD, BUF_RD, BUF_INFO and BUF_HDR have no side effect but their response, and read the same again (R64): they answer OK and
change nothing else (the FAULT register and the state of their own port among it), or they fault (R304, R305). -/
def Obligations.ReadsAreIdempotent : Prop :=
  ∀ (c : Instr) (s t : State), readsOnly c = true → exec c s = .next t →
    ((∃ v, OnlyResponded s t s.cmdPort 0x00#8 v) ∨ ∃ cause, Faulted s t s.cmdPort cause) ∧ exec c t = .next t

/-- The parameters and the sets of buffers and ports never change (R27, R43, R58, R141). -/
def Obligations.ParametersAndBuffersAreFixed : Prop :=
  ∀ s t : State, s.Shaped → step s = .next t →
    t.cfg = s.cfg ∧ t.rxPool.length = s.rxPool.length ∧ t.txPool.length = s.txPool.length ∧ t.ports.length = s.ports.length

/-- A quiescent state (R362 says which) is still: no event, no framer step and no port's step changes it. R170 and R10 say that the
agents have no step there: that a scheduled one is a step, and leaves the state, is the model's choice (log 8). -/
def Obligations.QuiescentStateIsStill : Prop :=
  ∀ s : State, s.Quiescent →
    (∀ w i, decodeEvent w = .ok i → act (.event w) s = .next s) ∧ (∀ ready, act (.framer ready) s = .next s) ∧
    (∀ k < s.cfg.nCmdPorts, s.ports.length = s.cfg.nCmdPorts → act (.port k) s = .next s)
end

