-- ==== Sys2Proof/Laws/Memory.lean ====
section
/-! SUPPORT. A buffer's byte region: a read after a write, and the canonical form that every write keeps. -/

namespace Sys2Proof.Machine

@[simp] theorem Memory.wf_nil : Memory.wf [] := List.Pairwise.nil

@[simp] theorem Memory.read_nil (a : Nat) : Memory.read [] a = none := rfl

/-- A write touches no offset but its own. -/
theorem Memory.read_write (m : Memory) (a b : Nat) (v : Byte) (h : m.wf) :
    (m.write a v).read b = if b = a then some v else m.read b := by
  induction m with
  | nil =>
    by_cases e : b = a
    · simp [Memory.write, Memory.read, e]
    · simp [Memory.write, Memory.read, e, Ne.symm e]
  | cons c m ih =>
    obtain ⟨k, w⟩ := c
    have hm : Memory.wf m := (List.pairwise_cons.mp h).2
    unfold Memory.write
    split
    · by_cases e : b = a
      · simp [Memory.read, e]
      · simp [Memory.read, e, Ne.symm e]
    · split
      · rename_i e
        subst e
        by_cases e : b = a
        · simp [Memory.read, e]
        · simp [Memory.read, e, Ne.symm e]
      · rename_i e
        by_cases ek : k = b
        · have : b ≠ a := fun x => e (x ▸ ek.symm)
          simp [Memory.read, ek, this]
        · simp [Memory.read, ek, ih hm]

@[simp] theorem Memory.read_write_same (m : Memory) (a : Nat) (v : Byte) (h : m.wf) : (m.write a v).read a = some v := by
  simp [Memory.read_write m a a v h]

/-- A write lists its own offset and keeps the others. -/
theorem Memory.mem_write (m : Memory) (a : Nat) (v : Byte) (c : Host.Cell) (h : c ∈ m.write a v) : c = (a, v) ∨ c ∈ m := by
  induction m with
  | nil => simpa [Memory.write] using h
  | cons d m ih =>
    obtain ⟨k, w⟩ := d
    unfold Memory.write at h
    split at h
    · simpa using h
    · split at h
      · simp only [List.mem_cons] at h ⊢
        rcases h with h | h
        · exact .inl h
        · exact .inr (.inr h)
      · simp only [List.mem_cons] at h ⊢
        rcases h with h | h
        · exact .inr (.inl h)
        · exact (ih h).imp_right .inr

/-- A write keeps the canonical form. -/
theorem Memory.write_wf (m : Memory) (a : Nat) (v : Byte) (h : m.wf) : (m.write a v).wf := by
  induction m with
  | nil => simp [Memory.write, Memory.wf]
  | cons d m ih =>
    obtain ⟨k, w⟩ := d
    obtain ⟨hk, hm⟩ := List.pairwise_cons.mp h
    unfold Memory.write
    split
    · rename_i lt
      refine List.pairwise_cons.mpr ⟨fun c hc => ?_, h⟩
      rcases List.mem_cons.mp hc with rfl | hc
      · exact lt
      · exact Nat.lt_trans lt (hk c hc)
    · split
      · rename_i e
        subst e
        exact List.pairwise_cons.mpr ⟨hk, hm⟩
      · rename_i nlt ne
        refine List.pairwise_cons.mpr ⟨fun c hc => ?_, ih hm⟩
        rcases Memory.mem_write m a v c hc with rfl | hc
        · exact Nat.lt_of_le_of_ne (Nat.le_of_not_lt nlt) (Ne.symm ne)
        · exact hk c hc

end Sys2Proof.Machine
end

