-- ==== Sys2Proof/Laws/State.lean ====
section
/-! SUPPORT. What each update of State leaves of each field. The updates of one buffer and of one port are brought to `updBuf`
and `updPort`, which have one lemma per field. -/

namespace Sys2Proof.Machine

@[simp] theorem State.setOwner_eq (s : State) (p : Pool) (i : Nat) (o : Owner) :
    s.setOwner p i o = s.updBuf p i (fun b => { b with owner := o }) := rfl

@[simp] theorem State.bufPush_eq (s : State) (p : Pool) (i n : Nat) :
    s.bufPush p i n = s.updBuf p i (fun b => { b with head := b.head - BitVec.ofNat 16 n, len := b.len + BitVec.ofNat 16 n }) :=
  rfl

@[simp] theorem State.setPortState_eq (s : State) (k : Nat) (x : PortState) :
    s.setPortState k x = s.updPort k (fun p => { p with state := x }) := rfl

@[simp] theorem State.setResponse_eq (s : State) (k : Nat) (c : BitVec 8) (v : Word) :
    s.setResponse k c v = s.updPort k (fun p => { p with rspCode := c, rspValue := v }) := rfl

@[simp] theorem State.respond_eq (s : State) (k : Nat) (c : Code) (v : Word) :
    s.respond k c v = s.updPort k (fun p => { p with rspCode := c.byte, rspValue := v }) := rfl

/-! ### `updBuf` -/

@[simp] theorem State.updBuf_rxEn (s : State) (p : Pool) (i : Nat) (f : Buffer → Buffer) : (s.updBuf p i f).rxEn = s.rxEn := by
  cases p <;> rfl
@[simp] theorem State.updBuf_rxState (s : State) (p : Pool) (i : Nat) (f : Buffer → Buffer) : (s.updBuf p i f).rxState = s.rxState := by
  cases p <;> rfl
@[simp] theorem State.updBuf_hdrCnt (s : State) (p : Pool) (i : Nat) (f : Buffer → Buffer) : (s.updBuf p i f).hdrCnt = s.hdrCnt := by
  cases p <;> rfl
@[simp] theorem State.updBuf_hdrBuf (s : State) (p : Pool) (i : Nat) (f : Buffer → Buffer) : (s.updBuf p i f).hdrBuf = s.hdrBuf := by
  cases p <;> rfl
@[simp] theorem State.updBuf_rxRemaining (s : State) (p : Pool) (i : Nat) (f : Buffer → Buffer) : (s.updBuf p i f).rxRemaining = s.rxRemaining := by
  cases p <;> rfl
@[simp] theorem State.updBuf_rxBufIdx (s : State) (p : Pool) (i : Nat) (f : Buffer → Buffer) : (s.updBuf p i f).rxBufIdx = s.rxBufIdx := by
  cases p <;> rfl
@[simp] theorem State.updBuf_q (s : State) (p : Pool) (i : Nat) (f : Buffer → Buffer) : (s.updBuf p i f).q = s.q := by
  cases p <;> rfl
@[simp] theorem State.updBuf_txBusy (s : State) (p : Pool) (i : Nat) (f : Buffer → Buffer) : (s.updBuf p i f).txBusy = s.txBusy := by
  cases p <;> rfl
@[simp] theorem State.updBuf_txIdx (s : State) (p : Pool) (i : Nat) (f : Buffer → Buffer) : (s.updBuf p i f).txIdx = s.txIdx := by
  cases p <;> rfl
@[simp] theorem State.updBuf_txPos (s : State) (p : Pool) (i : Nat) (f : Buffer → Buffer) : (s.updBuf p i f).txPos = s.txPos := by
  cases p <;> rfl
@[simp] theorem State.updBuf_txPort (s : State) (p : Pool) (i : Nat) (f : Buffer → Buffer) : (s.updBuf p i f).txPort = s.txPort := by
  cases p <;> rfl
@[simp] theorem State.updBuf_ports (s : State) (p : Pool) (i : Nat) (f : Buffer → Buffer) : (s.updBuf p i f).ports = s.ports := by
  cases p <;> rfl
@[simp] theorem State.updBuf_initPhase (s : State) (p : Pool) (i : Nat) (f : Buffer → Buffer) : (s.updBuf p i f).initPhase = s.initPhase := by
  cases p <;> rfl
@[simp] theorem State.updBuf_faultValid (s : State) (p : Pool) (i : Nat) (f : Buffer → Buffer) : (s.updBuf p i f).faultValid = s.faultValid := by
  cases p <;> rfl
@[simp] theorem State.updBuf_faultCause (s : State) (p : Pool) (i : Nat) (f : Buffer → Buffer) : (s.updBuf p i f).faultCause = s.faultCause := by
  cases p <;> rfl
@[simp] theorem State.updBuf_diagLog (s : State) (p : Pool) (i : Nat) (f : Buffer → Buffer) : (s.updBuf p i f).diagLog = s.diagLog := by
  cases p <;> rfl
@[simp] theorem State.updBuf_uartRx (s : State) (p : Pool) (i : Nat) (f : Buffer → Buffer) : (s.updBuf p i f).uartRx = s.uartRx := by
  cases p <;> rfl
@[simp] theorem State.updBuf_uartTx (s : State) (p : Pool) (i : Nat) (f : Buffer → Buffer) : (s.updBuf p i f).uartTx = s.uartTx := by
  cases p <;> rfl
@[simp] theorem State.updBuf_uartBound (s : State) (p : Pool) (i : Nat) (f : Buffer → Buffer) : (s.updBuf p i f).uartBound = s.uartBound := by
  cases p <;> rfl
@[simp] theorem State.updBuf_cfg (s : State) (p : Pool) (i : Nat) (f : Buffer → Buffer) : (s.updBuf p i f).cfg = s.cfg := by
  cases p <;> rfl
@[simp] theorem State.updBuf_cmdPort (s : State) (p : Pool) (i : Nat) (f : Buffer → Buffer) : (s.updBuf p i f).cmdPort = s.cmdPort := by
  cases p <;> rfl
@[simp] theorem State.updBuf_drawGen (s : State) (p : Pool) (i : Nat) (f : Buffer → Buffer) : (s.updBuf p i f).drawGen = s.drawGen := by
  cases p <;> rfl
@[simp] theorem State.updBuf_schedule (s : State) (p : Pool) (i : Nat) (f : Buffer → Buffer) : (s.updBuf p i f).schedule = s.schedule := by
  cases p <;> rfl

/-! ### `updPort` -/

@[simp] theorem State.updPort_rxEn (s : State) (k : Nat) (f : Port → Port) : (s.updPort k f).rxEn = s.rxEn := rfl
@[simp] theorem State.updPort_rxState (s : State) (k : Nat) (f : Port → Port) : (s.updPort k f).rxState = s.rxState := rfl
@[simp] theorem State.updPort_hdrCnt (s : State) (k : Nat) (f : Port → Port) : (s.updPort k f).hdrCnt = s.hdrCnt := rfl
@[simp] theorem State.updPort_hdrBuf (s : State) (k : Nat) (f : Port → Port) : (s.updPort k f).hdrBuf = s.hdrBuf := rfl
@[simp] theorem State.updPort_rxRemaining (s : State) (k : Nat) (f : Port → Port) : (s.updPort k f).rxRemaining = s.rxRemaining := rfl
@[simp] theorem State.updPort_rxBufIdx (s : State) (k : Nat) (f : Port → Port) : (s.updPort k f).rxBufIdx = s.rxBufIdx := rfl
@[simp] theorem State.updPort_rxPool (s : State) (k : Nat) (f : Port → Port) : (s.updPort k f).rxPool = s.rxPool := rfl
@[simp] theorem State.updPort_txPool (s : State) (k : Nat) (f : Port → Port) : (s.updPort k f).txPool = s.txPool := rfl
@[simp] theorem State.updPort_q (s : State) (k : Nat) (f : Port → Port) : (s.updPort k f).q = s.q := rfl
@[simp] theorem State.updPort_txBusy (s : State) (k : Nat) (f : Port → Port) : (s.updPort k f).txBusy = s.txBusy := rfl
@[simp] theorem State.updPort_txIdx (s : State) (k : Nat) (f : Port → Port) : (s.updPort k f).txIdx = s.txIdx := rfl
@[simp] theorem State.updPort_txPos (s : State) (k : Nat) (f : Port → Port) : (s.updPort k f).txPos = s.txPos := rfl
@[simp] theorem State.updPort_txPort (s : State) (k : Nat) (f : Port → Port) : (s.updPort k f).txPort = s.txPort := rfl
@[simp] theorem State.updPort_initPhase (s : State) (k : Nat) (f : Port → Port) : (s.updPort k f).initPhase = s.initPhase := rfl
@[simp] theorem State.updPort_faultValid (s : State) (k : Nat) (f : Port → Port) : (s.updPort k f).faultValid = s.faultValid := rfl
@[simp] theorem State.updPort_faultCause (s : State) (k : Nat) (f : Port → Port) : (s.updPort k f).faultCause = s.faultCause := rfl
@[simp] theorem State.updPort_diagLog (s : State) (k : Nat) (f : Port → Port) : (s.updPort k f).diagLog = s.diagLog := rfl
@[simp] theorem State.updPort_uartRx (s : State) (k : Nat) (f : Port → Port) : (s.updPort k f).uartRx = s.uartRx := rfl
@[simp] theorem State.updPort_uartTx (s : State) (k : Nat) (f : Port → Port) : (s.updPort k f).uartTx = s.uartTx := rfl
@[simp] theorem State.updPort_uartBound (s : State) (k : Nat) (f : Port → Port) : (s.updPort k f).uartBound = s.uartBound := rfl
@[simp] theorem State.updPort_cfg (s : State) (k : Nat) (f : Port → Port) : (s.updPort k f).cfg = s.cfg := rfl
@[simp] theorem State.updPort_cmdPort (s : State) (k : Nat) (f : Port → Port) : (s.updPort k f).cmdPort = s.cmdPort := rfl
@[simp] theorem State.updPort_drawGen (s : State) (k : Nat) (f : Port → Port) : (s.updPort k f).drawGen = s.drawGen := rfl
@[simp] theorem State.updPort_schedule (s : State) (k : Nat) (f : Port → Port) : (s.updPort k f).schedule = s.schedule := rfl

/-! ### `recordFault` -/

@[simp] theorem State.recordFault_rxEn (s : State) (c : Cause) : (s.recordFault c).rxEn = s.rxEn := by
  unfold State.recordFault; split <;> rfl
@[simp] theorem State.recordFault_rxState (s : State) (c : Cause) : (s.recordFault c).rxState = s.rxState := by
  unfold State.recordFault; split <;> rfl
@[simp] theorem State.recordFault_hdrCnt (s : State) (c : Cause) : (s.recordFault c).hdrCnt = s.hdrCnt := by
  unfold State.recordFault; split <;> rfl
@[simp] theorem State.recordFault_hdrBuf (s : State) (c : Cause) : (s.recordFault c).hdrBuf = s.hdrBuf := by
  unfold State.recordFault; split <;> rfl
@[simp] theorem State.recordFault_rxRemaining (s : State) (c : Cause) : (s.recordFault c).rxRemaining = s.rxRemaining := by
  unfold State.recordFault; split <;> rfl
@[simp] theorem State.recordFault_rxBufIdx (s : State) (c : Cause) : (s.recordFault c).rxBufIdx = s.rxBufIdx := by
  unfold State.recordFault; split <;> rfl
@[simp] theorem State.recordFault_rxPool (s : State) (c : Cause) : (s.recordFault c).rxPool = s.rxPool := by
  unfold State.recordFault; split <;> rfl
@[simp] theorem State.recordFault_txPool (s : State) (c : Cause) : (s.recordFault c).txPool = s.txPool := by
  unfold State.recordFault; split <;> rfl
@[simp] theorem State.recordFault_q (s : State) (c : Cause) : (s.recordFault c).q = s.q := by
  unfold State.recordFault; split <;> rfl
@[simp] theorem State.recordFault_txBusy (s : State) (c : Cause) : (s.recordFault c).txBusy = s.txBusy := by
  unfold State.recordFault; split <;> rfl
@[simp] theorem State.recordFault_txIdx (s : State) (c : Cause) : (s.recordFault c).txIdx = s.txIdx := by
  unfold State.recordFault; split <;> rfl
@[simp] theorem State.recordFault_txPos (s : State) (c : Cause) : (s.recordFault c).txPos = s.txPos := by
  unfold State.recordFault; split <;> rfl
@[simp] theorem State.recordFault_txPort (s : State) (c : Cause) : (s.recordFault c).txPort = s.txPort := by
  unfold State.recordFault; split <;> rfl
@[simp] theorem State.recordFault_ports (s : State) (c : Cause) : (s.recordFault c).ports = s.ports := by
  unfold State.recordFault; split <;> rfl
@[simp] theorem State.recordFault_initPhase (s : State) (c : Cause) : (s.recordFault c).initPhase = s.initPhase := by
  unfold State.recordFault; split <;> rfl
@[simp] theorem State.recordFault_diagLog (s : State) (c : Cause) : (s.recordFault c).diagLog = s.diagLog := by
  unfold State.recordFault; split <;> rfl
@[simp] theorem State.recordFault_uartRx (s : State) (c : Cause) : (s.recordFault c).uartRx = s.uartRx := by
  unfold State.recordFault; split <;> rfl
@[simp] theorem State.recordFault_uartTx (s : State) (c : Cause) : (s.recordFault c).uartTx = s.uartTx := by
  unfold State.recordFault; split <;> rfl
@[simp] theorem State.recordFault_uartBound (s : State) (c : Cause) : (s.recordFault c).uartBound = s.uartBound := by
  unfold State.recordFault; split <;> rfl
@[simp] theorem State.recordFault_cfg (s : State) (c : Cause) : (s.recordFault c).cfg = s.cfg := by
  unfold State.recordFault; split <;> rfl
@[simp] theorem State.recordFault_cmdPort (s : State) (c : Cause) : (s.recordFault c).cmdPort = s.cmdPort := by
  unfold State.recordFault; split <;> rfl
@[simp] theorem State.recordFault_drawGen (s : State) (c : Cause) : (s.recordFault c).drawGen = s.drawGen := by
  unfold State.recordFault; split <;> rfl
@[simp] theorem State.recordFault_schedule (s : State) (c : Cause) : (s.recordFault c).schedule = s.schedule := by
  unfold State.recordFault; split <;> rfl

@[simp] theorem State.recordFault_faultValid (s : State) (c : Cause) : (s.recordFault c).faultValid = true := by
  unfold State.recordFault; split <;> simp_all

@[simp] theorem State.recordFault_faultCause (s : State) (c : Cause) :
    (s.recordFault c).faultCause = if s.faultValid = true then s.faultCause else c.byte := by
  unfold State.recordFault; split <;> simp_all

end Sys2Proof.Machine
end

