-- ==== Sys2Proof/Laws/Buffers.lean ====
section
/-! SUPPORT. One lemma for each shared operation on buffers and ports: what it leaves of every buffer, every byte and every
port. -/

namespace Sys2Proof.Machine

/-! ### Views that an update of another field does not change -/

theorem State.poolN_congr {s t : State} (h : t.cfg = s.cfg) (p : Pool) : t.poolN p = s.poolN p := by
  cases p <;> simp [State.poolN, h]

theorem State.cap_congr {s t : State} (h : t.cfg = s.cfg) (p : Pool) : t.cap p = s.cap p := by
  cases p <;> simp [State.cap, h]

/-- Buffers depend on the pools and the parameters only. -/
theorem State.buf?_congr {s t : State} (hc : t.cfg = s.cfg) (hr : t.rxPool = s.rxPool) (ht : t.txPool = s.txPool) (p : Pool)
    (i : Nat) : t.buf? p i = s.buf? p i := by
  have hp : t.pool p = s.pool p := by cases p <;> simp [State.pool, hr, ht]
  simp [State.buf?, State.poolN_congr hc, hp]

/-- Bytes depend on the buffers, the parameters and the draw only. -/
theorem State.bufRead?_congr {s t : State} (hc : t.cfg = s.cfg) (hd : t.drawGen = s.drawGen)
    {p : Pool} {i : Nat} (hb : t.buf? p i = s.buf? p i) (j : Nat) : t.bufRead? p i j = s.bufRead? p i j := by
  simp [State.bufRead?, hb, State.cap_congr hc, State.unwritten, hd]

/-- Ports depend on the ports and the parameters only. -/
theorem State.port?_congr {s t : State} (hc : t.cfg = s.cfg) (hp : t.ports = s.ports) (k : Nat) : t.port? k = s.port? k := by
  simp [State.port?, hc, hp]

@[simp] theorem State.poolN_updBuf (s : State) (p p' : Pool) (i : Nat) (f : Buffer → Buffer) :
    (s.updBuf p i f).poolN p' = s.poolN p' := State.poolN_congr (by simp) p'

@[simp] theorem State.cap_updBuf (s : State) (p p' : Pool) (i : Nat) (f : Buffer → Buffer) :
    (s.updBuf p i f).cap p' = s.cap p' := State.cap_congr (by simp) p'

@[simp] theorem State.poolN_updPort (s : State) (p : Pool) (k : Nat) (f : Port → Port) : (s.updPort k f).poolN p = s.poolN p :=
  State.poolN_congr (by simp) p

@[simp] theorem State.cap_updPort (s : State) (p : Pool) (k : Nat) (f : Port → Port) : (s.updPort k f).cap p = s.cap p :=
  State.cap_congr (by simp) p

@[simp] theorem State.poolN_recordFault (s : State) (p : Pool) (c : Cause) : (s.recordFault c).poolN p = s.poolN p :=
  State.poolN_congr (by simp) p

@[simp] theorem State.cap_recordFault (s : State) (p : Pool) (c : Cause) : (s.recordFault c).cap p = s.cap p :=
  State.cap_congr (by simp) p

@[simp] theorem State.unwritten_updBuf (s : State) (p p' : Pool) (i i' j : Nat) (f : Buffer → Buffer) :
    (s.updBuf p i f).unwritten p' i' j = s.unwritten p' i' j := by simp [State.unwritten]

@[simp] theorem State.buf?_updPort (s : State) (k : Nat) (f : Port → Port) (p : Pool) (i : Nat) :
    (s.updPort k f).buf? p i = s.buf? p i := State.buf?_congr (by simp) (by simp) (by simp) p i

@[simp] theorem State.buf?_recordFault (s : State) (c : Cause) (p : Pool) (i : Nat) :
    (s.recordFault c).buf? p i = s.buf? p i := State.buf?_congr (by simp) (by simp) (by simp) p i

@[simp] theorem State.bufRead?_updPort (s : State) (k : Nat) (f : Port → Port) (p : Pool) (i j : Nat) :
    (s.updPort k f).bufRead? p i j = s.bufRead? p i j := State.bufRead?_congr (by simp) (by simp) (by simp) j

@[simp] theorem State.bufRead?_recordFault (s : State) (c : Cause) (p : Pool) (i j : Nat) :
    (s.recordFault c).bufRead? p i j = s.bufRead? p i j := State.bufRead?_congr (by simp) (by simp) (by simp) j

@[simp] theorem State.port?_updBuf (s : State) (p : Pool) (i : Nat) (f : Buffer → Buffer) (k : Nat) :
    (s.updBuf p i f).port? k = s.port? k := State.port?_congr (by simp) (by simp) k

@[simp] theorem State.port?_recordFault (s : State) (c : Cause) (k : Nat) : (s.recordFault c).port? k = s.port? k :=
  State.port?_congr (by simp) (by simp) k

/-! ### The updates -/

theorem State.pool_updBuf (s : State) (p : Pool) (i : Nat) (f : Buffer → Buffer) (p' : Pool) :
    (s.updBuf p i f).pool p' = if p' = p then (s.pool p').modify i f else s.pool p' := by
  cases p <;> cases p' <;> rfl

/-- `updBuf` changes one buffer, if it exists, and no other. -/
theorem State.buf?_updBuf (s : State) (p : Pool) (i : Nat) (f : Buffer → Buffer) (p' : Pool) (i' : Nat) :
    (s.updBuf p i f).buf? p' i' = if p' = p ∧ i' = i then (s.buf? p i).map f else s.buf? p' i' := by
  simp only [State.buf?, State.poolN_updBuf, State.pool_updBuf]
  by_cases hp : p' = p
  · subst hp
    by_cases hi : i' = i
    · subst hi
      by_cases h : i' < s.poolN p' <;> simp [h]
    · simp [hi, Ne.symm hi]
  · simp [hp]

@[simp] theorem State.buf?_updBuf_same (s : State) (p : Pool) (i : Nat) (f : Buffer → Buffer) :
    (s.updBuf p i f).buf? p i = (s.buf? p i).map f := by simp [State.buf?_updBuf]

/-- An update that keeps a buffer's bytes keeps every byte of buffer space. -/
theorem State.bufRead?_updBuf_of_data (s : State) (p : Pool) (i : Nat) (f : Buffer → Buffer)
    (hf : ∀ b, (f b).data = b.data) (p' : Pool) (i' j : Nat) : (s.updBuf p i f).bufRead? p' i' j = s.bufRead? p' i' j := by
  simp only [State.bufRead?, State.buf?_updBuf, State.cap_updBuf, State.unwritten_updBuf]
  by_cases e : p' = p ∧ i' = i
  · obtain ⟨rfl, rfl⟩ := e
    cases h : s.buf? p' i' <;> simp [hf]
  · simp [e]

/-- `updPort` changes one port, if it exists, and no other. -/
theorem State.port?_updPort (s : State) (k : Nat) (f : Port → Port) (k' : Nat) :
    (s.updPort k f).port? k' = if k' = k then (s.port? k).map f else s.port? k' := by
  by_cases e : k' = k
  · subst e
    by_cases h : k' < s.cfg.nCmdPorts <;> simp [State.port?, State.updPort, h]
  · simp [State.port?, State.updPort, e, Ne.symm e]

/-- A buffer that exists has an index below `N_p`. -/
theorem State.lt_of_buf? {s : State} {p : Pool} {i : Nat} {b : Buffer} (h : s.buf? p i = some b) : i < s.poolN p := by
  unfold State.buf? at h
  split at h
  · assumption
  · cases h

/-- A port that exists has a number below `N_CMD_PORTS`. -/
theorem State.lt_of_port? {s : State} {k : Nat} {x : Port} (h : s.port? k = some x) : k < s.cfg.nCmdPorts := by
  unfold State.port? at h
  split at h
  · assumption
  · cases h

/-! ### BufRead and BufWrite -/

/-- BufRead answers exactly in buffer space. -/
theorem State.bufRead?_eq_some {s : State} {p : Pool} {i j : Nat} {v : Byte} :
    s.bufRead? p i j = some v ↔
      ∃ b, s.buf? p i = some b ∧ j < s.cap p ∧ (b.data.read j).getD (s.unwritten p i j) = v := by
  unfold State.bufRead?
  cases h : s.buf? p i with
  | none => simp
  | some b => by_cases c : j < s.cap p <;> simp [c]

/-- BufWrite answers exactly in buffer space, and it is an update of the one buffer. -/
theorem State.bufWrite?_eq_some {s t : State} {p : Pool} {i j : Nat} {v : Byte} :
    s.bufWrite? p i j v = some t ↔
      (∃ b, s.buf? p i = some b) ∧ j < s.cap p ∧ t = s.updBuf p i (fun b => { b with data := b.data.write j v }) := by
  unfold State.bufWrite?
  cases h : s.buf? p i with
  | none => simp
  | some b => by_cases c : j < s.cap p <;> simp [c, eq_comm]

/-- After a BufWrite the byte written reads back, and every other byte of buffer space reads as before (R62). -/
theorem State.bufRead?_bufWrite {s t : State} {p : Pool} {i j : Nat} {v : Byte} (h : s.bufWrite? p i j v = some t)
    (hw : ∀ b ∈ s.buf? p i, b.data.wf) (p' : Pool) (i' j' : Nat) :
    t.bufRead? p' i' j' = if p' = p ∧ i' = i ∧ j' = j then some v else s.bufRead? p' i' j' := by
  obtain ⟨⟨b, hb⟩, hj, rfl⟩ := State.bufWrite?_eq_some.mp h
  have wf := hw b (by simp [hb])
  simp only [State.bufRead?, State.buf?_updBuf, State.cap_updBuf, State.unwritten_updBuf]
  by_cases e : p' = p ∧ i' = i
  · obtain ⟨rfl, rfl⟩ := e
    simp only [hb, and_self, if_true, Option.map_some, true_and]
    by_cases ej : j' = j
    · subst ej; simp [hj, Memory.read_write_same _ _ _ wf]
    · simp [ej, Memory.read_write _ _ _ _ wf]
  · have : ¬(p' = p ∧ i' = i ∧ j' = j) := fun x => e ⟨x.1, x.2.1⟩
    simp [e, this]

/-- `bufWrites?` of a first byte is a BufWrite and the writes of the rest. -/
theorem State.bufWrites?_cons {s t : State} {p : Pool} {i j : Nat} {v : Byte} {vs : List Byte} :
    s.bufWrites? p i j (v :: vs) = some t ↔
      ∃ u, s.bufWrite? p i j v = some u ∧ u.bufWrites? p i (j + 1) vs = some t := by
  simp only [State.bufWrites?]
  split <;> simp_all

/-! ### The operand check -/

/-- CheckBuf passes exactly for a CLIENT-owned buffer (R139). -/
theorem checkBuf_ok {s : State} {p : Pool} {i : Nat} {c : Cause} {b : Buffer} :
    checkBuf s p i c = .ok b ↔ s.buf? p i = some b ∧ b.owner = .client := by
  unfold checkBuf
  cases h : s.buf? p i with
  | none => simp
  | some x =>
    cases o : x.owner <;> simp [o] <;> (try (intro e; subst e; simp [o]))

/-- CheckBuf's fault, by the buffer (R139). -/
theorem checkBuf_error {s : State} {p : Pool} {i : Nat} {c d : Cause} :
    checkBuf s p i c = .error d ↔
      (s.buf? p i = none ∧ d = .invalidId) ∨
      (∃ b, s.buf? p i = some b ∧ b.owner = .free ∧ d = c) ∨
      (∃ b, s.buf? p i = some b ∧ b.owner ≠ .free ∧ b.owner ≠ .client ∧ d = .notOwned) := by
  unfold checkBuf
  cases h : s.buf? p i with
  | none => simp [eq_comm]
  | some x => cases o : x.owner <;> simp [o, eq_comm]

/-! ### PoolAlloc -/

/-- The lowest free index (R130): the buffer exists and is FREE, and every lower one is not. -/
theorem State.firstFree?_eq_some {s : State} {p : Pool} {i : Nat} :
    s.firstFree? p = some i ↔ s.isFree p i = true ∧ i < s.poolN p ∧ ∀ j < i, s.isFree p j = false := by
  unfold State.firstFree?
  rw [List.find?_range_eq_some]
  simp only [List.mem_range, Bool.not_eq_true']

/-- No buffer is free exactly when PoolAlloc answers EXHAUSTED (R130). -/
theorem State.firstFree?_eq_none {s : State} {p : Pool} :
    s.firstFree? p = none ↔ ∀ i < s.poolN p, s.isFree p i = false := by
  unfold State.firstFree?
  simp [List.find?_eq_none]

/-- A buffer that is free exists with owner FREE. -/
theorem State.isFree_iff {s : State} {p : Pool} {i : Nat} :
    s.isFree p i = true ↔ ∃ b, s.buf? p i = some b ∧ b.owner = .free := by
  unfold State.isFree
  cases h : s.buf? p i <;> simp

end Sys2Proof.Machine
end

