-- ==== Sys2Proof/Laws/Encoding.lean ====
section
/-! SUPPORT. A word as a number of its fields, and each field read back as it was put in (30_encoding.md R100, R112). -/

namespace Sys2Proof

/-- `{a, b}` is `a * 2^w + b` for a `b` of width w (00_scope.md R9). -/
theorem toNat_append_eq {a b : Nat} (x : BitVec a) (y : BitVec b) : (x ++ y).toNat = x.toNat * 2 ^ b + y.toNat := by
  rw [BitVec.toNat_append, ← Nat.shiftLeft_add_eq_or_of_lt y.isLt, Nat.shiftLeft_eq]

theorem toNat_commandWord (o : BitVec 8) (p : Pool) (i : Nat) (n : Half) :
    (commandWord o p i n).toNat = o.toNat * 2 ^ 24 + p.bit.toNat * 2 ^ 23 + i % 128 * 2 ^ 16 + n.toNat := by
  simp only [commandWord, toNat_append_eq, BitVec.toNat_ofNat]
  omega

/-- A field `v[hi:lo]` as a number (R9). -/
theorem toNat_field {w : Nat} (hi lo : Nat) (v : BitVec w) :
    (v.extractLsb hi lo).toNat = v.toNat / 2 ^ lo % 2 ^ (hi - lo + 1) := by
  simp [BitVec.extractLsb_toNat, Nat.shiftRight_eq_div_pow]

@[simp] theorem opcOf_commandWord (o : BitVec 8) (p : Pool) (i : Nat) (n : Half) : opcOf (commandWord o p i n) = o := by
  apply BitVec.eq_of_toNat_eq
  simp only [opcOf, toNat_field, toNat_commandWord]
  omega

theorem poolBit_commandWord (o : BitVec 8) (p : Pool) (i : Nat) (n : Half) :
    (commandWord o p i n).extractLsb 23 23 = p.bit := by
  apply BitVec.eq_of_toNat_eq
  simp only [toNat_field, toNat_commandWord]
  omega

@[simp] theorem poolOf_commandWord (o : BitVec 8) (p : Pool) (i : Nat) (n : Half) : poolOf (commandWord o p i n) = p := by
  unfold poolOf
  rw [poolBit_commandWord]
  cases p <;> rfl

/-- IDX reads back an index that fits it. -/
theorem idxOf_commandWord (o : BitVec 8) (p : Pool) {i : Nat} (n : Half) (h : idxFits i = true) :
    idxOf (commandWord o p i n) = i := by
  simp only [idxFits, decide_eq_true_eq] at h
  simp only [idxOf, toNat_field, toNat_commandWord]
  omega

@[simp] theorem immOf_commandWord (o : BitVec 8) (p : Pool) (i : Nat) (n : Half) : immOf (commandWord o p i n) = n.toNat := by
  simp only [immOf, toNat_field, toNat_commandWord]
  omega

@[simp] theorem immLow_commandWord (o : BitVec 8) (p : Pool) (i : Nat) (h l : Byte) : immLow (commandWord o p i (h ++ l)) = l := by
  apply BitVec.eq_of_toNat_eq
  simp only [immLow, toNat_field, toNat_commandWord, toNat_append_eq]
  omega

@[simp] theorem immHigh_commandWord (o : BitVec 8) (p : Pool) (i : Nat) (h l : Byte) :
    immHigh (commandWord o p i (h ++ l)) = h := by
  apply BitVec.eq_of_toNat_eq
  simp only [immHigh, toNat_field, toNat_commandWord, toNat_append_eq]
  omega

@[simp] theorem kindOf_eventWord (k : BitVec 2) (d : Byte) : kindOf (eventWord k d) = k := by
  apply BitVec.eq_of_toNat_eq
  simp only [kindOf, toNat_field, eventWord, toNat_append_eq]
  omega

@[simp] theorem dataOf_eventWord (k : BitVec 2) (d : Byte) : dataOf (eventWord k d) = d := by
  apply BitVec.eq_of_toNat_eq
  simp only [dataOf, toNat_field, eventWord, toNat_append_eq]
  omega

end Sys2Proof
end

