-- ==== Sys2Proof/Laws/Frames.lean ====
section
/-! SUPPORT. What each shared operation leaves alone, in the terms of Safety.lean. -/

namespace Sys2Proof.Machine

/-- Changing one port changes nothing else. -/
theorem frame_updPort (s : State) (k : Nat) (f : Port → Port) :
    SameRegisters s (s.updPort k f) ∧ SameTags s (s.updPort k f) ∧ SameBytes s (s.updPort k f) ∧
      OnlyPort s (s.updPort k f) k f := by
  simp [SameRegisters, SameButFault, SameReceiver, SameFramer, SameFault, SameEnvironment, SameOwn, SameTags, SameBytes,
    OnlyPort, State.port?_updPort]

/-- `respond` writes the response of one port and nothing else. -/
theorem respond_frame (s : State) (k : Nat) (c : Code) (v : Word) : OnlyResponded s (s.respond k c v) k c.byte v :=
  frame_updPort s k _

/-- `raise` writes the response of one port and the FAULT register, the first cause staying, and nothing else (R304, R305). -/
theorem raise_frame (s : State) (k : Nat) (c : Cause) : Faulted s (s.raise k c) k c := by
  simp [State.raise, Faulted, FaultRecorded, SameButFault, SameReceiver, SameFramer, SameEnvironment, SameOwn, SameTags,
    SameBytes, Responded, OnlyPort, State.port?_updPort]
  rfl

/-- Changing one buffer changes no register and no port. -/
theorem frame_updBuf (s : State) (p : Pool) (i : Nat) (f : Buffer → Buffer) :
    SameRegisters s (s.updBuf p i f) ∧ SamePorts s (s.updBuf p i f) := by
  simp [SameRegisters, SameButFault, SameReceiver, SameFramer, SameFault, SameEnvironment, SameOwn, SamePorts]

/-- Changing one buffer that exists changes the tags of that one. -/
theorem updBuf_tags {s : State} {p : Pool} {i : Nat} {b : Buffer} (h : s.buf? p i = some b) (f : Buffer → Buffer) :
    OnlyTags s (s.updBuf p i f) p i (f b).tags := by
  intro p' i'
  rw [State.buf?_updBuf]
  split
  · simp [h]
  · rfl

/-- Changing a buffer's bytes only changes no tags. -/
theorem updBuf_sameTags (s : State) (p : Pool) (i : Nat) (f : Buffer → Buffer) (hf : ∀ b, (f b).tags = b.tags) :
    SameTags s (s.updBuf p i f) := by
  intro p' i'
  rw [State.buf?_updBuf]
  split
  · rename_i e
    obtain ⟨rfl, rfl⟩ := e
    cases s.buf? p' i' <;> simp_all
  · rfl

/-- Changing a buffer but not its bytes changes no byte of buffer space. -/
theorem updBuf_sameBytes (s : State) (p : Pool) (i : Nat) (f : Buffer → Buffer) (hf : ∀ b, (f b).data = b.data) :
    SameBytes s (s.updBuf p i f) := State.bufRead?_updBuf_of_data s p i f hf

/-- Tags, where the buffers of `t` are those of `s` with one changed. -/
theorem onlyTags_of_updBuf {s t : State} {p : Pool} {i : Nat} {b : Buffer} {x : Owner × Half × Half × Byte × Byte}
    (h : s.buf? p i = some b) (f : Buffer → Buffer) (ht : ∀ p' i', t.buf? p' i' = (s.updBuf p i f).buf? p' i')
    (hx : (f b).tags = x) : OnlyTags s t p i x := by
  intro p' i'
  rw [ht, updBuf_tags h f p' i', hx]

/-- Bytes, where the buffers of `t` are those of `s` with one changed, but not its bytes. -/
theorem sameBytes_of_updBuf {s t : State} {p : Pool} {i : Nat} (f : Buffer → Buffer)
    (ht : ∀ p' i', t.buf? p' i' = (s.updBuf p i f).buf? p' i') (hc : t.cfg = s.cfg) (hd : t.drawGen = s.drawGen)
    (hf : ∀ b, (f b).data = b.data) : SameBytes s t := by
  intro p' i' j
  rw [← State.bufRead?_updBuf_of_data s p i f hf p' i' j]
  exact State.bufRead?_congr (by simpa using hc) (by simpa using hd) (ht p' i') j

/-- Two updates of one buffer are one. -/
theorem State.updBuf_updBuf (s : State) (p : Pool) (i : Nat) (f g : Buffer → Buffer) :
    (s.updBuf p i f).updBuf p i g = s.updBuf p i (fun b => g (f b)) := by
  unfold State.updBuf
  cases p <;> simp [State.setPool, State.pool, List.modify_modify_eq, Function.comp_def]

@[simp] theorem Buffer.allocated_data (r : Nat) (o : Owner) (b : Buffer) : (Buffer.allocated r o b).data = b.data := rfl

@[simp] theorem Buffer.allocated_tags (r : Nat) (o : Owner) (b : Buffer) :
    (Buffer.allocated r o b).tags = (o, BitVec.ofNat 16 r, 0#16, 0#8, 0#8) := rfl

/-- A legal instance's capacities are 16-bit numbers (R6). -/
theorem State.Shaped.cap_le {s : State} (h : s.Shaped) (p : Pool) : s.cap p ≤ 65535 := by
  obtain ⟨⟨_, _, h1, h2, _⟩, _⟩ := h
  cases p <;> simp [State.cap] <;> omega

/-- A legal instance's pools have at most 32 buffers (R6). -/
theorem State.Shaped.poolN_le {s : State} (h : s.Shaped) (p : Pool) : s.poolN p ≤ 32 := by
  obtain ⟨⟨h1, h2, _⟩, _⟩ := h
  cases p <;> simp [State.poolN] <;> omega

/-- Buffer `i < N_p` of a shaped state exists (R58). -/
theorem State.Shaped.exists_buf {s : State} (h : s.Shaped) {p : Pool} {i : Nat} (hi : i < s.poolN p) :
    ∃ b, s.buf? p i = some b := by
  obtain ⟨_, hr, ht, _⟩ := h
  cases p <;> simp only [State.poolN] at hi <;> simp [State.buf?, State.poolN, State.pool, hi] <;>
    exact ⟨_, List.getElem?_eq_getElem (by omega)⟩

end Sys2Proof.Machine
end

