-- ==== Sys2Proof/Laws/PerInstr.lean ====
section
/-! SUPPORT. The family OpcodeTable: the word the encoder gives an instruction is of the row of spec/opcode_table.json that
stands for it: the row's opcode (its mask 0xFF000000), and zero in the row's reserved fields (30_encoding.md R102, R103). -/

namespace Sys2Proof.Laws.OpcodeTable

/-- A command row: its opcode, and which of P, IDX, IMM and IMM[15:8] the row marks 0. -/
structure Row where
  opc : BitVec 8
  zeroP : Bool := false
  zeroIdx : Bool := false
  zeroImm : Bool := false
  zeroHigh : Bool := false
  deriving DecidableEq, Repr

/-- The word is of the row. -/
def Row.holds (r : Row) (w : Word) : Prop :=
  opcOf w = r.opc ∧ (r.zeroP = true → poolOf w = .rx) ∧ (r.zeroIdx = true → idxOf w = 0) ∧ (r.zeroImm = true → immOf w = 0) ∧
  (r.zeroHigh = true → immHigh w = 0#8)

/-- The wire word is a command word of the row. -/
def isCommand (r : Row) : Wire → Prop
  | .command w => r.holds w
  | .event _ => False

/-- The wire word is an event word of the kind; `data` is its DATA. -/
def isEvent (kind : BitVec 2) (data : Byte) : Wire → Prop
  | .command _ => False
  | .event w => kindOf w = kind ∧ dataOf w = data

/-- The encoded instruction is of its row. -/
def Statement : Instr → Prop
  | .nop => isCommand { opc := 0x00#8, zeroP := true, zeroIdx := true, zeroImm := true } (encode .nop)
  | .alloc p r => isCommand { opc := 0x01#8, zeroIdx := true } (encode (.alloc p r))
  | .release p i => isCommand { opc := 0x02#8, zeroImm := true } (encode (.release p i))
  | .bufAdd p i b => isCommand { opc := 0x03#8, zeroHigh := true } (encode (.bufAdd p i b))
  | .bufPull p i n => isCommand { opc := 0x04#8 } (encode (.bufPull p i n))
  | .bufRd p i o => isCommand { opc := 0x05#8 } (encode (.bufRd p i o))
  | .bufInfo p i => isCommand { opc := 0x06#8, zeroImm := true } (encode (.bufInfo p i))
  | .bufHdr p i => isCommand { opc := 0x07#8, zeroImm := true } (encode (.bufHdr p i))
  | .deq => isCommand { opc := 0x10#8, zeroP := true, zeroIdx := true, zeroImm := true } (encode .deq)
  | .tx p i => isCommand { opc := 0x20#8, zeroImm := true } (encode (.tx p i))
  | .init => isCommand { opc := 0x30#8, zeroP := true, zeroIdx := true, zeroImm := true } (encode .init)
  | .csrRd c => isCommand { opc := 0x31#8, zeroP := true, zeroIdx := true } (encode (.csrRd c))
  | .spurious => isEvent 0#2 0#8 (encode .spurious)
  | .rxByte d => isEvent 1#2 d (encode (.rxByte d))
  | .txReady => isEvent 2#2 0#8 (encode .txReady)

theorem nop : Statement .nop := by
  simp [Statement, isCommand, Row.holds, encode, idxOf_commandWord, idxFits]

theorem alloc (p : Pool) (r : Nat) : Statement (.alloc p r) := by
  simp [Statement, isCommand, Row.holds, encode, idxOf_commandWord, idxFits]

theorem release (p : Pool) (i : Nat) : Statement (.release p i) := by
  simp [Statement, isCommand, Row.holds, encode]

theorem bufAdd (p : Pool) (i : Nat) (b : Byte) : Statement (.bufAdd p i b) := by
  simp only [Statement, isCommand, Row.holds, encode, opcOf_commandWord, immHigh_commandWord]
  simp

theorem bufPull (p : Pool) (i n : Nat) : Statement (.bufPull p i n) := by
  simp [Statement, isCommand, Row.holds, encode]

theorem bufRd (p : Pool) (i o : Nat) : Statement (.bufRd p i o) := by
  simp [Statement, isCommand, Row.holds, encode]

theorem bufInfo (p : Pool) (i : Nat) : Statement (.bufInfo p i) := by
  simp [Statement, isCommand, Row.holds, encode]

theorem bufHdr (p : Pool) (i : Nat) : Statement (.bufHdr p i) := by
  simp [Statement, isCommand, Row.holds, encode]

theorem deq : Statement .deq := by
  simp [Statement, isCommand, Row.holds, encode, idxOf_commandWord, idxFits]

theorem tx (p : Pool) (i : Nat) : Statement (.tx p i) := by
  simp [Statement, isCommand, Row.holds, encode]

theorem init : Statement .init := by
  simp [Statement, isCommand, Row.holds, encode, idxOf_commandWord, idxFits]

theorem csrRd (c : Nat) : Statement (.csrRd c) := by
  simp [Statement, isCommand, Row.holds, encode, idxOf_commandWord, idxFits]

theorem spurious : Statement .spurious := by simp [Statement, isEvent, encode]

theorem rxByte (d : Byte) : Statement (.rxByte d) := by simp [Statement, isEvent, encode]

theorem txReady : Statement .txReady := by simp [Statement, isEvent, encode]

end Sys2Proof.Laws.OpcodeTable
end

