-- ==== Sys2Proof/Laws/Receiver.lean ====
section
/-! SUPPORT. The receiver's operations: the assembly of the length, PoolAlloc on the receive pool, and a payload byte. -/

namespace Sys2Proof.Machine

/-- `le16(b0, b1) = b0 + 256 * b1` (R10, R91). -/
theorem le16_toNat (a b : Byte) : (le16 a b).toNat = a.toNat + 256 * b.toNat := by
  simp only [le16, toNat_append_eq]
  omega

/-- The low and the high byte of a length assemble to it (R65). -/
theorem le16_bytes (l : Half) : le16 (lowByte l) (highByte l) = l := by
  apply BitVec.eq_of_toNat_eq
  simp only [le16, toNat_append_eq, lowByte, highByte, toNat_field]
  omega

/-- PoolAlloc takes the lowest free buffer (R130), whatever `i` is claimed to be it. -/
theorem State.poolAlloc?_of_lowest {s : State} {p : Pool} {i : Nat} {b : Buffer} (hb : s.buf? p i = some b)
    (hf : b.owner = .free) (hl : ∀ j < i, s.isFree p j = false) (r : Nat) (o : Owner) :
    s.poolAlloc? p r o = some (i, s.updBuf p i (Buffer.allocated r o)) := by
  have h : s.firstFree? p = some i :=
    State.firstFree?_eq_some.mpr ⟨State.isFree_iff.mpr ⟨b, hb, hf⟩, State.lt_of_buf? hb, hl⟩
  simp [State.poolAlloc?, h]

/-- PoolAlloc answers EXHAUSTED where no buffer is free (R130). -/
theorem State.poolAlloc?_exhausted {s : State} {p : Pool} (h : ∀ i < s.poolN p, s.isFree p i = false) (r : Nat) (o : Owner) :
    s.poolAlloc? p r o = none := by
  simp [State.poolAlloc?, State.firstFree?_eq_none.mpr h]

/-- The fourth header byte completes the header in the same step (R173). -/
theorem headerByte_last {s : State} (h : s.hdrCnt = 3#2) (v : Byte) :
    headerByte v s = headerComplete (le16 s.hdrBuf.b0 s.hdrBuf.b1) s.hdrBuf.b2 v
      { s with hdrBuf := { s.hdrBuf with b3 := v }, hdrCnt := 0#2 } := by
  simp [headerByte, h, HdrBuf.put]

end Sys2Proof.Machine
end

