-- ==== Sys2Proof/Laws/Step.lean ====
section
/-! SUPPORT. A step, action by action: what moves when an action is at the head of the schedule. Later proofs cite these and
unfold neither `step` nor `fetch`. -/

namespace Sys2Proof.Machine

/-- With nobody scheduled the block waits. -/
theorem step_idle {s : State} (h : s.schedule = []) : step s = .next s := by simp [step, fetch, h]

theorem act_port (k : Nat) (s : State) : act (.port k) s = portStep k s := rfl

theorem act_framer (ready : Bool) (s : State) : act (.framer ready) s = framerStep ready s := rfl

theorem act_answer (x : Word) (s : State) : act (.answer x) s = collaboratorAnswer x s := rfl

theorem act_arrive (b : Byte) (s : State) : act (.arrive b) s = .next (uartArrive b s) := rfl

theorem act_bind (v : Bool) (s : State) : act (.bind v) s = .next { s with uartBound := v } := rfl

theorem act_reset (s : State) : act .reset s = .next (blockReset s) := rfl

/-- A step is the action at the head of the schedule, moving in the state that has the rest of the schedule. -/
theorem step_eq_act {s : State} {a : Action} {rest : List Action} (h : s.schedule = a :: rest) :
    step s = act a { s with schedule := rest } := by
  cases s
  simp only at h
  subst h
  rfl

/-- `decode` of a command word is `decodeCommand`, of an event word `decodeEvent`. -/
theorem decode_command (w : Word) : decode (.command w) = decodeCommand w := rfl

theorem decode_event (w : EventWord) : decode (.event w) = decodeEvent w := rfl

/-- A reserved-field check passes an instruction on or says reservedNonzero; it gives no other instruction. -/
theorem reserved_ok {b : Bool} {i j : Instr} (h : reserved b i = .ok j) : i = j := by
  unfold reserved at h
  split at h <;> simp_all

/-- A choice's value is that of one of its branches. -/
theorem ite_cases {α : Type} {p : Prop} [Decidable p] {a b x : α} (h : (if p then a else b) = x) : a = x ∨ b = x := by
  split at h
  · exact .inl h
  · exact .inr h

/-- No command word decodes to an event. -/
theorem decodeCommand_not_event {w : Word} {i : Instr} (h : decodeCommand w = .ok i) : isEvent i = false := by
  unfold decodeCommand at h
  rcases ite_cases h with h | h
  · rw [← reserved_ok h]; rfl
  rcases ite_cases h with h | h
  · rw [← reserved_ok h]; rfl
  rcases ite_cases h with h | h
  · rw [← reserved_ok h]; rfl
  rcases ite_cases h with h | h
  · rw [← reserved_ok h]; rfl
  rcases ite_cases h with h | h
  · rw [← Except.ok.inj h]; rfl
  rcases ite_cases h with h | h
  · rw [← Except.ok.inj h]; rfl
  rcases ite_cases h with h | h
  · rw [← reserved_ok h]; rfl
  rcases ite_cases h with h | h
  · rw [← reserved_ok h]; rfl
  rcases ite_cases h with h | h
  · rw [← reserved_ok h]; rfl
  rcases ite_cases h with h | h
  · rw [← reserved_ok h]; rfl
  rcases ite_cases h with h | h
  · rw [← reserved_ok h]; rfl
  rcases ite_cases h with h | h
  · rw [← reserved_ok h]; rfl
  · cases h

/-- An event word decodes to an event only. -/
theorem decodeEvent_event {w : EventWord} {i : Instr} (h : decodeEvent w = .ok i) : isEvent i = true := by
  unfold decodeEvent at h
  rcases ite_cases h with h | h
  · rw [← Except.ok.inj h]; rfl
  rcases ite_cases h with h | h
  · cases h
  rcases ite_cases h with h | h
  · rw [← Except.ok.inj h]; rfl
  rcases ite_cases h with h | h
  · rw [← Except.ok.inj h]; rfl
  · cases h

/-- A command word placed with a next state: the port is there and IDLE, and the word is performed or faults. -/
theorem act_command_next {k : Nat} {w : Word} {s t : State} (h : act (.command k w) s = .next t) :
    ∃ x, s.port? k = some x ∧ x.state = .idle ∧
      ((∃ i, decodeCommand w = .ok i ∧ exec i { s with cmdPort := k } = .next t) ∨
        ∃ c, (c = .illegalOpcode ∨ c = .reservedNonzero) ∧ t = State.raise { s with cmdPort := k } k c) := by
  change (match fetchCommand k w s with | .ok (i, t) => exec i t | .error o => o) = .next t at h
  unfold fetchCommand at h
  cases hp : s.port? k with
  | none => simp [hp] at h
  | some x =>
    refine ⟨x, rfl, ?_⟩
    by_cases hx : x.state = .idle
    · refine ⟨hx, ?_⟩
      simp only [hp, hx, decode_command, ne_eq, not_true_eq_false, if_false] at h
      cases hd : decodeCommand w with
      | ok i => rw [hd] at h; exact .inl ⟨i, rfl, h⟩
      | error e =>
        rw [hd] at h
        cases e with
        | illegalOpcode => exact .inr ⟨_, .inl rfl, (Host.Outcome.next.inj h).symm⟩
        | reservedNonzero => exact .inr ⟨_, .inr rfl, (Host.Outcome.next.inj h).symm⟩
        | reservedEvent => cases h
    · simp [hp, hx] at h

/-- An event word delivered with a next state: it decodes to an event, which is performed. -/
theorem act_event_next {w : EventWord} {s t : State} (h : act (.event w) s = .next t) :
    ∃ i, decodeEvent w = .ok i ∧ isEvent i = true ∧ exec i s = .next t := by
  change (match fetchEvent w s with | .ok (i, t) => exec i t | .error o => o) = .next t at h
  simp only [fetchEvent, decode_event] at h
  cases hd : decodeEvent w with
  | ok i => rw [hd] at h; exact ⟨i, rfl, decodeEvent_event hd, h⟩
  | error e => rw [hd] at h; cases h

/-- A step with a next state: nobody is scheduled, or the head of the schedule moved. -/
theorem step_next_cases {s t : State} (h : step s = .next t) :
    (s.schedule = [] ∧ t = s) ∨
      ∃ a rest, s.schedule = a :: rest ∧ act a { s with schedule := rest } = .next t := by
  cases hs : s.schedule with
  | nil => rw [step_idle hs] at h; exact .inl ⟨rfl, (Host.Outcome.next.inj h).symm⟩
  | cons a rest => exact .inr ⟨a, rest, rfl, by rw [← step_eq_act hs]; exact h⟩

/-- The port that waits for the collaborator is the one an answer is for, where INIT's registers agree (R262). -/
theorem State.calling?_eq {s : State} (h : s.InitAgrees) {k : Nat} {x : Port} (hp : s.port? k = some x)
    (hx : x.state.awaitsCollaborator = true) : s.calling? = some k := by
  have hk := State.lt_of_port? hp
  unfold State.calling?
  rw [List.find?_range_eq_some]
  refine ⟨by simp [State.portAwaits, hp, hx], by simpa using hk, fun j hj => ?_⟩
  unfold State.portAwaits
  cases hj' : s.port? j with
  | none => simp
  | some y =>
    by_contra hc
    have hc : y.state.awaitsCollaborator = true := by simpa using hc
    have := h.2.2.2.1 j (State.lt_of_port? hj') y hj' k hk x hp ⟨hc, hx⟩
    omega

end Sys2Proof.Machine
end

