-- ==== Sys2Proof/Laws/Transmit.lean ====
section
/-! SUPPORT. What the shared operations of the framer and of the dispatch queue leave: a sequence of BufWrites, a fault at
acceptance, the handoff, the completion, and DeqComplete. -/

namespace Sys2Proof.Machine

/-- An update that gives a buffer the bytes it has is none. -/
theorem State.updBuf_data_self {s : State} {p : Pool} {i : Nat} {b : Buffer} (h : s.buf? p i = some b) :
    s.updBuf p i (fun x => { x with data := b.data }) = s := by
  have e : (s.pool p)[i]? = some b := by
    unfold State.buf? at h
    split at h
    · exact h
    · cases h
  have m : (s.pool p).modify i (fun x => { x with data := b.data }) = s.pool p := by
    apply List.ext_getElem?
    intro n
    by_cases d : i = n
    · subst d; simp [e]
    · simp [d]
  unfold State.updBuf
  rw [m]
  cases p <;> rfl

/-- Successive BufWrites within a buffer succeed: they change its bytes only, they keep the canonical form, and each byte written
reads back (R62). -/
theorem State.bufWrites?_spec {p : Pool} {i : Nat} (vs : List Byte) :
    ∀ (s : State) (j : Nat) (b : Buffer), s.buf? p i = some b → b.data.wf → j + vs.length ≤ s.cap p →
      ∃ d : Memory, s.bufWrites? p i j vs = some (s.updBuf p i (fun b => { b with data := d })) ∧ d.wf ∧
        ∀ p' i' j', (s.updBuf p i (fun b => { b with data := d })).bufRead? p' i' j' =
          if p' = p ∧ i' = i ∧ j ≤ j' ∧ j' < j + vs.length then vs[j' - j]? else s.bufRead? p' i' j' := by
  induction vs with
  | nil =>
    intro s j b hb hw _
    refine ⟨b.data, by rw [State.updBuf_data_self hb]; rfl, hw, fun p' i' j' => ?_⟩
    have : ¬(j ≤ j' ∧ j' < j) := by omega
    simp [this, State.updBuf_data_self hb]
  | cons v vs ih =>
    intro s j b hb hw hc
    simp only [List.length_cons] at hc
    obtain ⟨u, hu⟩ : ∃ u, s.bufWrite? p i j v = some u := ⟨_, State.bufWrite?_eq_some.mpr ⟨⟨b, hb⟩, by omega, rfl⟩⟩
    have hr := State.bufRead?_bufWrite hu (by simp [hb, hw])
    obtain ⟨-, -, e⟩ := State.bufWrite?_eq_some.mp hu
    have hbu : u.buf? p i = some { b with data := b.data.write j v } := by subst e; simp [hb]
    obtain ⟨d, h1, h2, h3⟩ := ih u (j + 1) _ hbu (Memory.write_wf _ _ _ hw) (by subst e; simp; omega)
    have hd : u.updBuf p i (fun b => { b with data := d }) = s.updBuf p i (fun b => { b with data := d }) := by
      rw [e, State.updBuf_updBuf]
    rw [hd] at h1 h3
    refine ⟨d, State.bufWrites?_cons.mpr ⟨u, hu, h1⟩, h2, fun p' i' j' => ?_⟩
    rw [h3, hr]
    by_cases h : p' = p ∧ i' = i
    · simp only [h, true_and, List.length_cons]
      rcases Nat.lt_trichotomy j' j with h5 | h5 | h5
      · simp [show ¬(j + 1 ≤ j') by omega, show ¬(j ≤ j') by omega, show ¬j' = j by omega]
      · subst h5; simp
      · have : j' - j = (j' - (j + 1)) + 1 := by omega
        simp [show j + 1 ≤ j' by omega, show j ≤ j' by omega, show ¬j' = j by omega, this,
          show j' < j + 1 + vs.length ↔ j' < j + (vs.length + 1) by omega]
    · have : ∀ q : Prop, ¬(p' = p ∧ i' = i ∧ q) := fun q x => h ⟨x.1, x.2.1⟩
      simp [this]

/-- A TX that faults at acceptance leaves its port IDLE with the cause as response, the FAULT register's update, and nothing
else (R210, R304, R305). -/
theorem txFault_frame (s : State) (k : Nat) (c : Cause) :
    FaultRecorded s (txFault k c s) c ∧
      OnlyPort s (txFault k c s) k (fun _ => { state := .idle, rspCode := c.byte, rspValue := 0#32 }) := by
  constructor
  · simp [txFault, State.raise, FaultRecorded, SameButFault, SameReceiver, SameFramer, SameEnvironment, SameOwn, SameTags,
      SameBytes]
    rfl
  · intro k'
    simp [txFault, State.raise, State.port?_updPort]
    split <;> simp_all [Function.comp_def]

/-- The handoff's buffers (R211): only the owner of the one buffer changes. -/
theorem txHandoff_buf? (k i : Nat) (s : State) (p : Pool) (i' : Nat) :
    (txHandoff k i s).buf? p i' = (s.setOwner .tx i .transmitter).buf? p i' := rfl

/-- The handoff's ports (R211): the one port waits. -/
theorem txHandoff_port? (k i : Nat) (s : State) (k' : Nat) :
    (txHandoff k i s).port? k' = if k' = k then (s.port? k).map (fun x => { x with state := .txWait }) else s.port? k' := by
  rw [show (txHandoff k i s).port? k' = ((s.setOwner .tx i .transmitter).setPortState k .txWait).port? k' from rfl]
  simp [State.port?_updPort]

/-- The completion's buffers (R214): only the owner of the one buffer changes. -/
theorem txComplete_buf? (s : State) (p : Pool) (i : Nat) :
    (txComplete s).buf? p i = (s.setOwner .tx s.txIdx.toNat .free).buf? p i := rfl

/-- The completion's ports (R214): the framer's port is IDLE with OK. -/
theorem txComplete_port? (s : State) (k : Nat) :
    (txComplete s).port? k =
      if k = s.txPort.toNat then (s.port? k).map (fun _ => { state := .idle, rspCode := 0x00#8, rspValue := 0#32 })
      else s.port? k := by
  rw [show (txComplete s).port? k = (((s.setOwner .tx s.txIdx.toNat .free).respond s.txPort.toNat .ok 0#32).setPortState
    s.txPort.toNat .idle).port? k from rfl]
  simp only [State.setPortState_eq, State.respond_eq, State.setOwner_eq, State.port?_updPort, State.port?_updBuf]
  split
  · rename_i h
    subst h
    simp [Function.comp_def, Code.byte]
  · rfl

/-- DeqComplete (R242), where the FIFO's head names a buffer: the rest of the FIFO, the buffer's owner, port 0's completion, and
nothing else. -/
theorem deqComplete_next {s : State} {i : BitVec 5} {b : Buffer} (rest : List (BitVec 5)) (hb : s.buf? .rx i.toNat = some b) :
    ∃ t, deqComplete i rest s = .next t ∧ SameRegisters { s with q := rest } t ∧
      OnlyTags s t .rx i.toNat (.client, b.head, b.len, b.chan, b.src) ∧ SameBytes s t ∧
      OnlyPort s t 0 (fun _ => { state := .idle, rspCode := 0x00#8, rspValue := i.setWidth 32 }) := by
  refine ⟨_, by simp only [deqComplete, hb]; rfl, ?_, ?_, ?_, ?_⟩
  · exact ⟨⟨⟨rfl, rfl, rfl, rfl, rfl, rfl⟩, rfl, ⟨rfl, rfl, rfl, rfl⟩, rfl, rfl, ⟨rfl, rfl, rfl⟩, ⟨rfl, rfl, rfl, rfl⟩⟩, rfl, rfl⟩
  · exact onlyTags_of_updBuf hb (fun b => { b with owner := .client }) (fun _ _ => rfl) rfl
  · exact sameBytes_of_updBuf (p := .rx) (i := i.toNat) (fun b => { b with owner := .client }) (fun _ _ => rfl) rfl rfl
      (fun _ => rfl)
  · intro k
    refine Eq.trans (b := ((s.updPort 0 (fun x => { x with state := .idle })).updPort 0
      (fun x => { x with rspCode := 0x00#8, rspValue := i.setWidth 32 })).port? k) rfl ?_
    simp only [State.port?_updPort]
    split
    · simp [Function.comp_def]
    · rfl

/-- TxAccept, its checks passed (R211): the header lies in the four bytes before the payload, the buffer passes to the framer,
the port waits, and nothing else changes. -/
theorem txAccept_next {s : State} {k i : Nat} {b : Buffer} (hs : s.Shaped) (hb : s.buf? .tx i = some b)
    (ho : b.owner = .client) (hh : 4 ≤ b.head.toNat) (hc : b.head.toNat + b.len.toNat ≤ s.cap .tx) (hw : b.data.wf) :
    ∃ t, txAccept k i s = .next t ∧
      SameRegisters { s with txBusy := true, txIdx := BitVec.ofNat 5 i, txPos := 0#16, txPort := BitVec.ofNat 8 k } t ∧
      OnlyTags s t .tx i (.transmitter, b.head - 4#16, b.len + 4#16, b.chan, b.src) ∧
      OnlyPort s t k (fun x => { x with state := .txWait }) ∧
      (∀ p' i' j', t.bufRead? p' i' j' =
        if p' = .tx ∧ i' = i ∧ b.head.toNat - 4 ≤ j' ∧ j' < b.head.toNat then
          (headerBytes b.len 0#8 0#8)[j' - (b.head.toNat - 4)]?
        else s.bufRead? p' i' j') := by
  have hn := hs.cap_le .tx
  let g : Buffer → Buffer := fun x => { x with head := x.head - 4#16, len := x.len + 4#16 }
  have hb2 : (s.updBuf .tx i g).buf? .tx i = some (g b) := by simp [hb]
  obtain ⟨d, h1, _, h3⟩ := State.bufWrites?_spec (headerBytes b.len 0#8 0#8) (s.updBuf .tx i g) (b.head.toNat - 4) (g b) hb2 hw
    (by simp [headerBytes]; omega)
  have hl : b.head.toNat - 4 + (headerBytes b.len 0#8 0#8).length = b.head.toNat := by simp [headerBytes]; omega
  let u := s.updBuf .tx i (fun x => { g x with data := d })
  have hu : (s.updBuf .tx i g).updBuf .tx i (fun x => { x with data := d }) = u := State.updBuf_updBuf ..
  rw [hu] at h1 h3
  have h4 : (s.bufPush .tx i 4).bufWrites? .tx i (b.head.toNat - 4) (headerBytes b.len 0#8 0#8) = some u := h1
  refine ⟨txHandoff k i u, by simp only [txAccept, hb, ho, h4, Nat.not_lt.mpr hh]; rfl, ?_, ?_, ?_, ?_⟩
  · exact ⟨⟨⟨rfl, rfl, rfl, rfl, rfl, rfl⟩, rfl, ⟨rfl, rfl, rfl, rfl⟩, rfl, rfl, ⟨rfl, rfl, rfl⟩, ⟨rfl, rfl, rfl, rfl⟩⟩, rfl, rfl⟩
  · refine onlyTags_of_updBuf hb (fun x => { g x with data := d, owner := .transmitter }) (fun p' i' => ?_) rfl
    rw [txHandoff_buf?, State.setOwner_eq, State.updBuf_updBuf]
  · intro k'
    rw [txHandoff_port?]
    simp [u]
  · intro p' i' j'
    have e : SameBytes u (txHandoff k i u) :=
      sameBytes_of_updBuf (p := .tx) (i := i) (fun x => { x with owner := .transmitter }) (fun _ _ => rfl) rfl rfl (fun _ => rfl)
    rw [e, h3, hl, State.bufRead?_updBuf_of_data s .tx i g (fun _ => rfl)]

end Sys2Proof.Machine
end

