-- ==== Sys2Proof/Machine/Asm.lean ====
section
/-! DEFINITION. The textual syntax of commands and environment lines (30_encoding.md R108) and the pseudo-instructions (R109).
Nothing here is part of a step: a line stands for commands placed on a port, or for moves of the environment. -/

namespace Sys2Proof.Machine.Asm

/-! ### Tokens -/

/-- Put a finished token before the rest. -/
def flush (acc : List Char) (rest : List String) : List String :=
  if acc.isEmpty then rest else String.ofList acc.reverse :: rest

/-- The tokens of a line: separated by blanks and commas, ended by a comment `; text`. -/
def tokensFrom : List Char → List Char → List String
  | [], acc => flush acc []
  | c :: cs, acc =>
    if c = ';' then flush acc []
    else if c = ' ' ∨ c = ',' then flush acc (tokensFrom cs [])
    else tokensFrom cs (c :: acc)

/-- The value of a digit. -/
def digit? (c : Char) : Option Nat :=
  if '0' ≤ c ∧ c ≤ '9' then some (c.toNat - '0'.toNat)
  else if 'a' ≤ c ∧ c ≤ 'f' then some (c.toNat - 'a'.toNat + 10)
  else if 'A' ≤ c ∧ c ≤ 'F' then some (c.toNat - 'A'.toNat + 10)
  else none

/-- The value of a run of digits in a base, most significant first. -/
def digits? (base : Nat) : List Char → Nat → Option Nat
  | [], n => some n
  | c :: cs, n =>
    match digit? c with
    | none => none
    | some d => if d < base then digits? base cs (n * base + d) else none

/-- "Numbers are decimal or `0x` hexadecimal" (R108). -/
def number? (t : String) : Option Nat :=
  match t.toList with
  | [] => none
  | ['0', 'x'] => none
  | '0' :: 'x' :: cs => digits? 16 cs 0
  | cs => digits? 10 cs 0

/-- The bytes of an environment line (95_test_vectors.md: "bytes are hexadecimal"). DEDUCED, log 21: safe. -/
def byte? (t : String) : Option Byte :=
  match digits? 16 t.toList 0 with
  | none => none
  | some n => if n < 256 then some (BitVec.ofNat 8 n) else none

/-- `rx` is P = 0, `tx` is P = 1 (R108). -/
def pool? (t : String) : Option Pool :=
  if t = "rx" then some .rx else if t = "tx" then some .tx else none

/-- The names of the CSRs, in the order of their numbers (R108). -/
def csrNames : List String :=
  ["RX_CTRL", "RX_STATUS", "RX_REMAINING", "RX_HDR_LEN", "RX_HDR_CHSRC", "RX_CUR_BUF", "RX_FREE_MAP", "TX_FREE_MAP",
    "Q_COUNT", "Q_HEAD", "TX_STATUS", "TX_POS", "FAULT", "CONFIG0", "CONFIG1"]

/-- "`csr` is a number or one of the names" (R108). -/
def csr? (t : String) : Option Nat :=
  match csrNames.findIdx? (· = t) with
  | some n => some n
  | none => number? t

/-- A byte operand of BUF_ADD. -/
def byteOperand? (t : String) : Option Byte :=
  match number? t with
  | none => none
  | some n => if n < 256 then some (BitVec.ofNat 8 n) else none

/-! ### Lines -/

/-- The forms of a command (R108), without its port. An operand that does not fit its field is no command. -/
def command? : List String → Option Instr
  | ["NOP"] => some .nop
  | ["ALLOC", p, r] => do return .alloc (← pool? p) (← number? r)
  | ["RELEASE", p, i] => do return .release (← pool? p) (← number? i)
  | ["BUF_ADD", p, i, b] => do return .bufAdd (← pool? p) (← number? i) (← byteOperand? b)
  | ["BUF_PULL", p, i, n] => do return .bufPull (← pool? p) (← number? i) (← number? n)
  | ["BUF_RD", p, i, o] => do return .bufRd (← pool? p) (← number? i) (← number? o)
  | ["BUF_INFO", p, i] => do return .bufInfo (← pool? p) (← number? i)
  | ["BUF_HDR", p, i] => do return .bufHdr (← pool? p) (← number? i)
  | ["DEQ"] => some .deq
  | ["TX", p, i] => do return .tx (← pool? p) (← number? i)
  | ["INIT"] => some .init
  | ["CSR_RD", c] => do return .csrRd (← csr? c)
  | _ => none

/-- `BUF_ADDS pool, i, b0, ..., bn`: BUF_ADD of each byte, in order (R109). -/
def bufAdds (p : Pool) (i : Nat) (bs : List Byte) : List Instr := bs.map (.bufAdd p i)

/-- `.rxframe L, c, s, p0, ...`: the frame in wire order (R109, R90); the payload may be shorter than `L`. -/
def rxFrame (l : Half) (chan src : Byte) (payload : List Byte) : List Byte := headerBytes l chan src ++ payload

/-- `.rxfill n, b`: `n` copies of a byte (R109). -/
def rxFill (n : Nat) (b : Byte) : List Byte := List.replicate n b

/-- The commands of a line without its port: one command, or the expansion of BUF_ADDS. -/
def commands? : List String → Option (List Instr)
  | "BUF_ADDS" :: p :: i :: bs => do return bufAdds (← pool? p) (← number? i) (← bs.mapM byteOperand?)
  | ts => (command? ts).map fun i => [i]

/-- The port `@k` that a token names. -/
def port? (t : String) : Option Nat :=
  match t.toList with
  | '@' :: cs => if cs.isEmpty then none else digits? 10 cs 0
  | _ => none

/-- A command placed on a port as its word (R100, R107). -/
def place (k : Nat) (i : Instr) : Option Action :=
  if i.wf then
    match encode i with
    | .command w => some (.command k w)
    | .event _ => none
  else none

/-- The moves a line stands for (R108, R109): commands on the named port (default `@0`), or bytes that arrive, or an event. -/
def lineTokens? : List String → Option (List Action)
  | [] => some []
  | ".rx" :: bs => (bs.mapM byte?).map (·.map .arrive)
  | [".txready"] => some [.event (eventWord 2#2 0#8)]
  | [".spurious"] => some [.event (eventWord 0#2 0#8)]
  | ".rxframe" :: l :: c :: s :: bs => do
    let n ← number? l
    if n < 65536 then
      return (rxFrame (BitVec.ofNat 16 n) (← byteOperand? c) (← byteOperand? s) (← bs.mapM byteOperand?)).map .arrive
    else none
  | [".rxfill", n, b] => do return (rxFill (← number? n) (← byteOperand? b)).map .arrive
  | t :: ts =>
    match port? t with
    | some k => do (← commands? ts).mapM (place k)
    | none => do (← commands? (t :: ts)).mapM (place 0)

/-- The moves a line of text stands for; `none` where it is no line of the syntax. -/
def line? (text : String) : Option (List Action) := lineTokens? (tokensFrom text.toList [])

/-! ### Responses -/

/-- The names of the codes that are no faults (R106). -/
def codeName : Code → String
  | .ok => "OK"
  | .exhausted => "EXHAUSTED"
  | .devStatus => "DEV_STATUS"
  | .bindFail => "BIND_FAIL"

/-- The names of the fault codes (R106). -/
def causeName : Cause → String
  | .illegalOpcode => "ILLEGAL_OPCODE"
  | .reservedNonzero => "RESERVED_NONZERO"
  | .wrongPort => "WRONG_PORT"
  | .wrongPool => "WRONG_POOL"
  | .invalidId => "INVALID_ID"
  | .doubleRelease => "DOUBLE_RELEASE"
  | .notOwned => "NOT_OWNED"
  | .badReserve => "BAD_RESERVE"
  | .noHeadroom => "NO_HEADROOM"
  | .bufOverflow => "BUF_OVERFLOW"
  | .bufUnderflow => "BUF_UNDERFLOW"
  | .outOfRange => "OUT_OF_RANGE"
  | .illegalCsr => "ILLEGAL_CSR"
  | .alreadyInit => "ALREADY_INIT"

/-- A response is written `-> CODE value` (R108); the value is in decimal. DESIGN CHOICE, log 21:
safe. -/
def responseText (name : String) (value : Word) : String := "-> " ++ name ++ " " ++ toString value.toNat

end Sys2Proof.Machine.Asm
end

