-- ==== Sys2Proof/Tests/Slice0.lean ====
section
/-! SUPPORT. The model's own tests: expected values are the spec's vectors (95_test_vectors.md §2, 30_encoding.md R110 and the
rules' examples). Then, for every obligation with hypotheses, a state and operands that meet them. -/

namespace Sys2Proof.Tests

open Sys2Proof.Machine

/-! ### Well-formedness refuses an operand that does not fit its field (R100) -/

theorem test_wf_idx : idxFits 127 = true ∧ idxFits 128 = false := by decide

theorem test_wf_imm : immFits 65535 = true ∧ immFits 65536 = false := by decide

theorem test_wf_alloc : (Instr.alloc .rx 65536).wf = false := by decide

theorem test_wf_release : (Instr.release .rx 128).wf = false := by decide

theorem test_wf_bufAdd : (Instr.bufAdd .tx 128 0#8).wf = false := by decide

theorem test_wf_bufPull : (Instr.bufPull .rx 128 0).wf = false ∧ (Instr.bufPull .rx 0 65536).wf = false := by decide

theorem test_wf_bufRd : (Instr.bufRd .rx 128 0).wf = false ∧ (Instr.bufRd .rx 0 65536).wf = false := by decide

theorem test_wf_bufInfo : (Instr.bufInfo .rx 128).wf = false := by decide

theorem test_wf_bufHdr : (Instr.bufHdr .rx 128).wf = false := by decide

theorem test_wf_tx : (Instr.tx .tx 128).wf = false := by decide

theorem test_wf_csrRd : (Instr.csrRd 65536).wf = false := by decide

/-! ### Decoding: words written from R100 and R102 (R110, 95 §2.1), events from R112 -/

theorem test_decode_nop : decodeTableWord 32 0x00000000 = some .nop := by decide

theorem test_decode_alloc : decodeTableWord 32 0x01800004 = some (.alloc .tx 4) := by decide

theorem test_decode_release : decodeTableWord 32 0x02810000 = some (.release .tx 1) := by decide

theorem test_decode_bufAdd : decodeTableWord 32 0x038000AA = some (.bufAdd .tx 0 0xAA#8) := by decide

theorem test_decode_bufPull : decodeTableWord 32 0x04020005 = some (.bufPull .rx 2 5) := by decide

theorem test_decode_bufRd : decodeTableWord 32 0x05000001 = some (.bufRd .rx 0 1) := by decide

theorem test_decode_bufInfo : decodeTableWord 32 0x06810000 = some (.bufInfo .tx 1) := by decide

theorem test_decode_bufHdr :
    decodeTableWord 32 0x07070000 = some (.bufHdr .rx 7) ∧ decodeTableWord 32 0x07800000 = some (.bufHdr .tx 0) := by decide

theorem test_decode_deq : decodeTableWord 32 0x10000000 = some .deq := by decide

theorem test_decode_tx :
    decodeTableWord 32 0x20810000 = some (.tx .tx 1) ∧ decodeTableWord 32 0x20000000 = some (.tx .rx 0) := by decide

theorem test_decode_init : decodeTableWord 32 0x30000000 = some .init := by decide

theorem test_decode_csrRd : decodeTableWord 32 0x31000001 = some (.csrRd 1) := by decide

theorem test_decode_events :
    decodeTableWord 16 0x000 = some .spurious ∧ decodeTableWord 16 0x1A5 = some (.rxByte 0xA5#8) ∧
    decodeTableWord 16 0x200 = some .txReady ∧ decodeTableWord 16 0x300 = none := by decide

theorem test_decode_illegal : decodeCommand 0x08000000#32 = .error .illegalOpcode ∧
    decodeCommand 0xFF000000#32 = .error .illegalOpcode := ⟨rfl, rfl⟩

theorem test_decode_reserved : decodeCommand 0x00000001#32 = .error .reservedNonzero ∧
    decodeCommand 0x01010000#32 = .error .reservedNonzero ∧ decodeCommand 0x03800100#32 = .error .reservedNonzero ∧
    decodeCommand 0x20010001#32 = .error .reservedNonzero ∧ decodeCommand 0x10000001#32 = .error .reservedNonzero ∧
    decodeCommand 0x31800000#32 = .error .reservedNonzero ∧ decodeCommand 0x30000001#32 = .error .reservedNonzero :=
  ⟨rfl, rfl, rfl, rfl, rfl, rfl, rfl⟩

/-- The syntax of R108 gives the words of R110. -/
theorem test_asm_words : Asm.line? "@1 ALLOC tx, 4" = some [.command 1 0x01800004#32] ∧
    Asm.line? "CSR_RD RX_STATUS ; a name" = some [.command 0 0x31000001#32] := by decide

/-- The environment lines and the pseudo-instructions of R108 and R109. -/
theorem test_asm_pseudo : Asm.line? "BUF_ADDS tx, 0, 0xAA, 0xBB" = some [.command 0 0x038000AA#32, .command 0 0x038000BB#32] ∧
    Asm.line? ".rxframe 0x181, 5, 7" = some [.arrive 0x81#8, .arrive 0x01#8, .arrive 5#8, .arrive 7#8] ∧
    Asm.line? ".spurious" = some [.event 0x000#10] := by decide

/-! ### States to test on -/

/-- A receiver past INIT, every buffer FREE ("ready" of 95_test_vectors.md). -/
def ready : State := { State.reset with rxEn := true, initPhase := .ready }

/-- A buffer of the given owner and cursors. -/
def buffer (o : Owner) (head len : Half) (data : Memory) : Buffer :=
  { owner := o, head := head, len := len, chan := 5#8, src := 7#8, data := data }

/-- `ready` with `buf(RX,0)` as given. -/
def withRx (b : Buffer) : State := { ready with rxPool := b :: List.replicate 7 Buffer.reset }

/-- `ready` with `buf(TX,0)` as given. -/
def withTx (b : Buffer) : State := { ready with txPool := [b, Buffer.reset] }

/-- `ready` with every receive buffer held by a client. -/
def allHeld : State := { ready with rxPool := List.replicate 8 (buffer .client 0#16 0#16 []) }

/-- The bytes 11 22 33 from offset 0. -/
def bytes112233 : Memory := [(0, 0x11#8), (1, 0x22#8), (2, 0x33#8)]

/-- The outcome is a next state with the property. -/
def after (o : Out) (φ : State → Bool) : Bool :=
  match o with
  | .next t => φ t
  | .fault _ | .refused _ => false

/-- Port 0 has the given response. -/
def answered (code : BitVec 8) (value : Word) (t : State) : Bool :=
  (t.port? 0).map (fun x => (x.rspCode, x.rspValue)) = some (code, value)

/-! ### One step of each instruction -/

theorem test_nop : after (exec .nop ready) (answered 0x00#8 0#32) = true := by decide

theorem test_alloc : after (exec (.alloc .tx 4) State.reset)
    (fun t => answered 0x00#8 0#32 t && t.buf? .tx 0 = some { Buffer.reset with owner := .client, head := 4#16 }) = true := by
  decide

theorem test_alloc_bad_reserve : after (exec (.alloc .rx 385) State.reset)
    (fun t => answered 0x17#8 0#32 t && t.csr? 0x0C = some 0x117#32) = true := by decide

theorem test_release : after (exec (.release .tx 0) (withTx (buffer .client 4#16 2#16 [])))
    (fun t => answered 0x00#8 0#32 t && t.csr? 0x07 = some 3#32) = true := by decide

theorem test_release_twice : after (exec (.release .tx 1) ready)
    (fun t => answered 0x15#8 0#32 t && t.csr? 0x0C = some 0x115#32) = true := by decide

theorem test_bufAdd : after (exec (.bufAdd .tx 0 0xAA#8) (withTx (buffer .client 4#16 0#16 [])))
    (fun t => t.bufRead? .tx 0 4 = some 0xAA#8 && (t.buf? .tx 0).map (·.len) = some 1#16) = true := by decide

theorem test_bufAdd_full : after (exec (.bufAdd .rx 0 0x55#8) (withRx (buffer .client 0#16 384#16 [])))
    (answered 0x19#8 0#32) = true := by decide

theorem test_bufPull : after (exec (.bufPull .rx 0 2) (withRx (buffer .client 0#16 3#16 [])))
    (fun t => answered 0x00#8 0#32 t && (t.buf? .rx 0).map (fun b => (b.head, b.len)) = some (2#16, 1#16)) = true := by decide

theorem test_bufPull_underflow : after (exec (.bufPull .rx 0 4) (withRx (buffer .client 0#16 3#16 [])))
    (answered 0x1A#8 0#32) = true := by decide

theorem test_bufRd : after (exec (.bufRd .rx 0 1) (withRx (buffer .client 0#16 3#16 bytes112233)))
    (answered 0x00#8 0x22#32) = true := by decide

theorem test_bufRd_out_of_range : after (exec (.bufRd .rx 0 3) (withRx (buffer .client 0#16 3#16 bytes112233)))
    (answered 0x1B#8 0#32) = true := by decide

theorem test_bufInfo : after (exec (.bufInfo .rx 0) (withRx (buffer .client 2#16 1#16 [])))
    (answered 0x00#8 0x00020001#32) = true := by decide

theorem test_bufHdr : after (exec (.bufHdr .rx 0) (withRx (buffer .client 0#16 3#16 [])))
    (answered 0x00#8 0x00000705#32) = true := by decide

theorem test_bufHdr_wrong_pool : after (exec (.bufHdr .tx 9) ready) (answered 0x13#8 0#32) = true := by decide

/-- Two frames queued, in buffers 3 and 5. -/
def queued : State :=
  { ready with
    q := [3#5, 5#5]
    rxPool := [Buffer.reset, Buffer.reset, Buffer.reset, buffer .queue 0#16 0#16 [], Buffer.reset, buffer .queue 0#16 0#16 [],
      Buffer.reset, Buffer.reset] }

theorem test_deq : after (exec .deq queued)
    (fun t => answered 0x00#8 3#32 t && t.q = [5#5] && (t.buf? .rx 3).map (·.owner) = some .client) = true := by decide

theorem test_deq_wrong_port : after (exec .deq { queued with cmdPort := 1 })
    (fun t => (t.port? 1).map (·.rspCode) = some 0x12#8 && t.q = queued.q) = true := by decide

/-- `buf(TX,0)` head 4, len 2 holding AA BB. -/
def payloadAABB : Buffer := buffer .client 4#16 2#16 [(4, 0xAA#8), (5, 0xBB#8)]

theorem test_tx : after (exec (.tx .tx 0) { withTx payloadAABB with cmdPort := 1 })
    (fun t => t.csr? 0x0A = some 0x00010001#32 && t.csr? 0x0B = some 0x00060000#32 && t.csr? 0x07 = some 2#32 &&
      (List.range 6).map (t.bufRead? .tx 0) =
        [some 0x02#8, some 0x00#8, some 0x00#8, some 0x00#8, some 0xAA#8, some 0xBB#8]) = true := by decide

theorem test_tx_no_headroom : after (exec (.tx .tx 0) (withTx (buffer .client 3#16 1#16 []))) (answered 0x18#8 0#32) = true := by
  decide

theorem test_init_bind_fail : after (exec .init { State.reset with uartBound := false })
    (fun t => answered 0x03#8 0#32 t && t.initPhase = .uninit && !t.rxEn) = true := by decide

theorem test_init_twice : after (exec .init ready) (answered 0x1D#8 0#32) = true := by decide

theorem test_csrRd : after (exec (.csrRd 0x0E) State.reset) (answered 0x00#8 0x01800180#32) = true ∧
    after (exec (.csrRd 0x0D) State.reset) (answered 0x00#8 0x04020208#32) = true := by decide

theorem test_csrRd_illegal : after (exec (.csrRd 0x0F) State.reset) (answered 0x1C#8 0#32) = true := by decide

theorem test_rxByte_header : after (act (.event 0x103#10) { ready with uartRx := [0x03#8] })
    (fun t => t.csr? 0x01 = some 4#32 && t.uartRx = [] && t.hdrBuf = ⟨3#8, 0#8, 0#8, 0#8⟩) = true := by decide

/-- The header 81 01 00 00 (L = 385), but for its last byte. -/
theorem test_rxByte_oversized :
    after (exec (.rxByte 0x00#8) { ready with hdrCnt := 3#2, hdrBuf := ⟨0x81#8, 0x01#8, 0#8, 0#8⟩, uartRx := [0x00#8] })
      (fun t => t.rxState = .discard && t.rxRemaining = 385#16 && t.diagLog = [⟨2#8, 385#16⟩] && t.csr? 0x06 = some 0xFF#32) =
      true := by decide

theorem test_txReady : act (.event 0x200#10) ready = .next ready := rfl

theorem test_spurious : act (.event 0x000#10) ready = .next ready := rfl

/-! ### One step of each other agent -/

/-- The frame 02 00 00 00 AA BB of port 1, with its last byte to send. -/
def lastByte : State :=
  { withTx (buffer .transmitter 0#16 6#16 [(0, 2#8), (1, 0#8), (2, 0#8), (3, 0#8), (4, 0xAA#8), (5, 0xBB#8)]) with
    txBusy := true, txIdx := 0#5, txPos := 5#16, txPort := 1#8, ports := [Port.reset, { Port.reset with state := .txWait }] }

theorem test_framer_completes : after (act (.framer true) lastByte)
    (fun t => t.uartTx = [0xBB#8] && !t.txBusy && (t.port? 1).map (·.state) = some .idle && t.csr? 0x07 = some 3#32) = true := by
  decide

theorem test_held_deq_completes :
    after (act (.port 0) { queued with ports := [{ Port.reset with state := .holdDeq }, Port.reset] })
      (fun t => answered 0x00#8 3#32 t && (t.port? 0).map (·.state) = some .idle) = true := by decide

/-- INIT on port 0 waits for `disable()`. -/
def disabling : State :=
  { State.reset with initPhase := .disabling, ports := [{ Port.reset with state := .initDisable }, Port.reset], uartRx := [3#8] }

/-- `disable()` answers -5: DEV_STATUS, INIT may be retried, the waiting bytes stay. -/
theorem test_disable_fails : after (act (.answer 0xFFFFFFFB#32) disabling)
    (fun t => answered 0x02#8 0xFFFFFFFB#32 t && t.initPhase = .uninit && !t.rxEn && t.uartRx = [3#8]) = true := by decide

/-- INIT on port 0 waits for `enable()`. -/
def enabling : State :=
  { State.reset with rxEn := true, initPhase := .enabling, ports := [{ Port.reset with state := .initEnable }, Port.reset] }

/-- `enable()` answers -1: the receiver stays enabled. -/
theorem test_enable_fails : after (act (.answer 0xFFFFFFFF#32) enabling)
    (fun t => answered 0x02#8 0xFFFFFFFF#32 t && t.csr? 0x00 = some 7#32) = true := by decide

theorem test_overrun_loses_the_byte :
    act (.arrive 9#8) { ready with cfg := { Config.default with uartRxFifoDepth := some 1 }, uartRx := [3#8] } =
      .next { ready with cfg := { Config.default with uartRxFifoDepth := some 1 }, uartRx := [3#8] } := rfl

theorem test_reset_keeps_the_uart : after (act .reset { queued with uartRx := [1#8], uartTx := [2#8] })
    (fun t => t.q = [] && !t.rxEn && t.uartRx = [1#8] && t.uartTx = [2#8] && t.csr? 0x06 = some 0xFF#32) = true := by decide

theorem test_illegal_opcode_faults : after (act (.command 1 0x08000000#32) State.reset)
    (fun t => (t.port? 1).map (·.rspCode) = some 0x10#8 && t.csr? 0x0C = some 0x110#32) = true := by decide

/-- `withFetchWord` makes the very next step run the word. -/
theorem test_withFetchWord : step (State.reset.withFetchWord 32 0x01800004) = exec (.alloc .tx 4) State.reset ∧
    after (step (State.reset.withFetchWord 16 0x103)) (fun t => t.hdrBuf.b0 = 3#8 && t.hdrCnt = 1#2) = true :=
  ⟨rfl, by decide⟩

/-- Every buffer's bytes are in the canonical form after reset. -/
theorem test_reset_memory_wf : State.reset.MemoryWf := by decide

/-! ### Witnesses: states and operands that meet an obligation's hypotheses -/

/-- A small instance in the middle of everything: buffer 0 queued, buffer 1 being filled (1 of 3 bytes there), buffer 2 held by a
client, transmit buffer 0 being sent with its last byte to go, port 0 holding a DEQ, port 1 waiting for the framer, port 2 holding
a TX of transmit buffer 1. -/
def midway : State :=
  { State.fresh { rxPoolN := 3, txPoolN := 2, rxBufCap := 4, txBufCap := 8, nCmdPorts := 3, uartRxFifoDepth := some 1 } with
    rxEn := true, initPhase := .ready, rxState := .awaitPayload, hdrBuf := ⟨3#8, 0#8, 5#8, 7#8⟩, rxRemaining := 2#16,
    rxBufIdx := 1#5, q := [0#5], uartRx := [9#8]
    rxPool := [buffer .queue 0#16 0#16 [], buffer .receiver 0#16 1#16 [(0, 1#8)], buffer .client 0#16 4#16
      [(0, 1#8), (1, 2#8), (2, 3#8), (3, 4#8)]]
    txPool := [buffer .transmitter 0#16 5#16 [(0, 1#8), (1, 0#8), (2, 0#8), (3, 0#8), (4, 6#8)],
      buffer .client 4#16 1#16 [(4, 8#8)]]
    txBusy := true, txIdx := 0#5, txPos := 4#16, txPort := 1#8
    ports := [{ Port.reset with state := .holdDeq }, { Port.reset with state := .txWait },
      { Port.reset with state := .holdTx 1 }] }

theorem midway_inv : midway.Inv :=
  ⟨by decide, by decide, by decide, by decide, by decide, by decide, by decide, by decide, by decide, by decide⟩

theorem reset_inv : State.reset.Inv :=
  ⟨by decide, by decide, by decide, by decide, by decide, by decide, by decide, by decide, by decide, by decide⟩

/-- The decoder's round trips: the largest operands of a command, and of an event. -/
theorem witness_roundtrips :
    (Instr.bufRd .tx 127 65535).wf = true ∧ decode (.command 0x05FFFFFF#32) = .ok (.bufRd .tx 127 65535) ∧
    decode (.event 0x1FF#10) = .ok (.rxByte 0xFF#8) := ⟨by decide, rfl, rfl⟩

/-- DecoderFollowsTheReservedFields: each of its three cases. -/
theorem witness_reserved_fields :
    reservedMask? (opcOf 0x32000000#32) = none ∧ reservedMask? (opcOf 0x31000000#32) = some 0x00FF0000#32 ∧
    0x3100FFFF#32 &&& 0x00FF0000#32 = 0#32 ∧ 0x31010000#32 &&& 0x00FF0000#32 ≠ 0#32 := by decide

/-- UndecodableWordFaultsItsPort and StepRunsThePlacedCommand, on the last port; StepRunsTheDeliveredEvent. -/
theorem witness_placed_word :
    State.reset.port? 1 = some Port.reset ∧ Port.reset.state = .idle ∧ decodeCommand 0xFF000000#32 = .error .illegalOpcode ∧
    decodeCommand 0x00000001#32 = .error .reservedNonzero ∧ decodeCommand 0x01800004#32 = .ok (.alloc .tx 4) ∧
    decodeEvent 0x103#10 = .ok (.rxByte 3#8) := ⟨rfl, rfl, rfl, rfl, rfl, rfl⟩

/-- EnvironmentMisuseIsRefused: the first port that does not exist, a port that is not IDLE, an event of KIND 3, nobody waiting. -/
theorem witness_misuse :
    State.reset.cfg.nCmdPorts ≤ 2 ∧ midway.port? 2 = some { Port.reset with state := .holdTx 1 } ∧
    decodeEvent 0x300#10 = .error .reservedEvent ∧
    State.reset.allPorts (fun _ x => x.state.awaitsCollaborator = false) := ⟨by decide, rfl, rfl, by decide⟩

/-- GuardedCommandsFaultOnBuffersNotOwned: a guarded command, and each case of its buffer. -/
theorem witness_guarded :
    guardedBuffer? (.release .rx 3) = some (.rx, 3, .doubleRelease) ∧ guardedBuffer? (.bufHdr .rx 0) = some (.rx, 0, .notOwned) ∧
    midway.poolN .rx ≤ 3 ∧ (State.reset.buf? .rx 7).map (·.owner) = some .free ∧
    (midway.buf? .rx 0).map (·.owner) = some .queue ∧ (midway.buf? .rx 1).map (·.owner) = some .receiver ∧
    (midway.buf? .tx 0).map (·.owner) = some .transmitter := by decide

/-- Only the last receive buffer is free. -/
def lastFree : State := { ready with rxPool := List.replicate 7 (buffer .client 0#16 0#16 []) ++ [Buffer.reset] }

/-- AllocTakesTheLowestFreeBuffer: the reserve at the capacity and above it; no buffer free, and only the last one. -/
theorem witness_alloc :
    lastFree.Shaped ∧ lastFree.cap .rx < 385 ∧ 384 ≤ lastFree.cap .rx ∧ lastFree.buf? .rx 7 = some Buffer.reset ∧
    (∀ j < 7, lastFree.isFree .rx j = false) ∧ allHeld.Shaped ∧ 384 ≤ allHeld.cap .rx ∧
    (∀ i < allHeld.poolN .rx, allHeld.isFree .rx i = false) := by decide

/-- A CLIENT-owned buffer of 3 bytes that ends at the capacity. -/
def atEnd : Buffer := buffer .client 381#16 3#16 []

/-- RELEASE, BUF_PULL, BUF_RD, BUF_INFO and BUF_HDR of a CLIENT-owned buffer: each side of every bound. -/
theorem witness_client_buffer :
    (withRx atEnd).Shaped ∧ (withRx atEnd).buf? .rx 0 = some atEnd ∧ atEnd.owner = .client ∧
    atEnd.head.toNat + atEnd.len.toNat ≤ (withRx atEnd).cap .rx ∧ atEnd.len.toNat < 4 ∧ 3 ≤ atEnd.len.toNat ∧
    2 < atEnd.len.toNat := by decide

/-- BufAddAppendsOneByte: a full buffer, and one with room for one byte. -/
theorem witness_bufAdd :
    (withRx atEnd).Shaped ∧ (withRx atEnd).buf? .rx 0 = some atEnd ∧ atEnd.owner = .client ∧ atEnd.data.wf ∧
    (withRx atEnd).cap .rx ≤ atEnd.head.toNat + atEnd.len.toNat ∧
    (let b := buffer .client 4#16 379#16 []
     (withTx b).Shaped ∧ (withTx b).buf? .tx 0 = some b ∧ b.data.wf ∧ b.head.toNat + b.len.toNat < (withTx b).cap .tx ∧
       (withTx b).cap .tx ≤ b.head.toNat + b.len.toNat + 1) := by decide

/-- DeqTakesTheOldestBuffer: another port, an empty FIFO, a FIFO of two. -/
theorem witness_deq :
    ({ ready with cmdPort := 1 } : State).cmdPort ≠ 0 ∧ ready.cmdPort = 0 ∧ ready.q = [] ∧ queued.cmdPort = 0 ∧
    queued.q = 3#5 :: [5#5] ∧ queued.buf? .rx (3#5).toNat = some (buffer .queue 0#16 0#16 []) := by decide

/-- HeldDeqCompletesWhenAFrameIsQueued. -/
theorem witness_held_deq :
    midway.port? 0 = some { Port.reset with state := .holdDeq } ∧ midway.q = 0#5 :: [] ∧
    midway.buf? .rx (0#5).toNat = some (buffer .queue 0#16 0#16 []) := by decide

/-- TxIsCheckedOrHeldWhenPlaced: the first index that does not exist, and the last one while the framer is busy. -/
theorem witness_tx_placed : midway.cfg.txPoolN ≤ 2 ∧ 1 < midway.cfg.txPoolN ∧ midway.txBusy = true := by decide

/-- A held TX of a transmit buffer, the framer idle. -/
def heldTx (b : Buffer) : State :=
  { withTx b with ports := [{ Port.reset with state := .holdTx 0 }, Port.reset] }

/-- TxAcceptedOnBothRoutes: the route of a command just placed, and each of the three cases (head 4, ending at the capacity). -/
theorem witness_tx_accepted_placed :
    ∃ o, ∃ b, (withTx b).Shaped ∧ (withTx b).txBusy = false ∧ (withTx b).buf? .tx 0 = some b ∧
      o = exec (.tx .tx 0) (withTx b) ∧ 0 = (withTx b).cmdPort ∧ 0 < (withTx b).cfg.nCmdPorts ∧ b.owner = .client ∧
      4 ≤ b.head.toNat ∧ b.head.toNat ≤ 4 ∧ b.head.toNat + b.len.toNat ≤ (withTx b).cap .tx ∧ b.data.wf :=
  ⟨_, buffer .client 4#16 380#16 [], by decide, rfl, rfl, rfl, rfl, by decide, rfl, by decide, by decide, by decide, by decide⟩

theorem witness_tx_accepted_held :
    ∃ o, ∃ b, (heldTx b).Shaped ∧ (heldTx b).txBusy = false ∧ (heldTx b).buf? .tx 0 = some b ∧
      o = act (.port 0) (heldTx b) ∧ (heldTx b).port? 0 = some { Port.reset with state := .holdTx 0 } ∧ b.owner ≠ .client :=
  ⟨_, Buffer.reset, by decide, rfl, rfl, rfl, rfl, by decide⟩

theorem witness_tx_accepted_no_headroom :
    (heldTx (buffer .client 3#16 1#16 [])).buf? .tx 0 = some (buffer .client 3#16 1#16 []) ∧ (3#16 : Half).toNat < 4 := by decide

/-- FramerSendsTheNextByte: the last byte but one, and the last, of a frame that ends at the capacity. -/
theorem witness_framer :
    (let b := buffer .transmitter 378#16 6#16 []
     let s := { withTx b with txBusy := true, txPos := 4#16 }
     s.txBusy = true ∧ s.buf? .tx s.txIdx.toNat = some b ∧ b.head.toNat + b.len.toNat ≤ s.cap .tx ∧
       s.txPos.toNat + 1 < b.len.toNat ∧ s.txPos.toNat + 2 = b.len.toNat) ∧
    lastByte.txBusy = true ∧ (lastByte.buf? .tx lastByte.txIdx.toNat).map (·.len.toNat) = some (lastByte.txPos.toNat + 1) := by
  decide

/-- HoldsChangeNothing: each thing that holds. -/
theorem witness_holds :
    ready.txBusy = false ∧ midway.port? 2 = some { Port.reset with state := .holdTx 1 } ∧ midway.txBusy = true ∧
    (∃ s : State, s.port? 0 = some { Port.reset with state := .holdDeq } ∧ s.q = []) ∧
    midway.port? 1 = some { Port.reset with state := .txWait } ∧
    disabling.port? 0 = some { Port.reset with state := .initDisable } ∧
    enabling.port? 0 = some { Port.reset with state := .initEnable } :=
  ⟨rfl, rfl, rfl, ⟨{ ready with ports := [{ Port.reset with state := .holdDeq }, Port.reset] }, rfl, rfl⟩, rfl, rfl, rfl⟩

/-- A whole transmission of AA BB from port 0. -/
def sending : State :=
  { withTx payloadAABB with schedule := .command 0 (commandWord 0x20#8 .tx 0 0#16) :: framerSteps 6 ++ [] }

/-- TransmissionSendsHeaderAndPayload. -/
theorem witness_transmission :
    sending.Inv ∧ sending.txBusy = false ∧ sending.port? 0 = some Port.reset ∧ Port.reset.state = .idle ∧
    sending.buf? .tx 0 = some payloadAABB ∧ payloadAABB.owner = .client ∧ 4 ≤ payloadAABB.head.toNat ∧
    [0xAA#8, 0xBB#8].length = payloadAABB.len.toNat ∧
    (∀ j < payloadAABB.len.toNat, sending.bufRead? .tx 0 (payloadAABB.head.toNat + j) = [0xAA#8, 0xBB#8][j]?) ∧
    sending.schedule = .command 0 (commandWord 0x20#8 .tx 0 0#16) :: framerSteps (4 + [0xAA#8, 0xBB#8].length) ++ [] :=
  ⟨⟨by decide, by decide, by decide, by decide, by decide, by decide, by decide, by decide, by decide, by decide⟩, rfl, rfl, rfl,
    rfl, rfl, by decide, rfl, by decide, rfl⟩

/-- A receiver with three header bytes and the fourth waiting. -/
def fourth (b0 b1 : Byte) (s : State) : State :=
  { s with hdrCnt := 3#2, hdrBuf := ⟨b0, b1, 5#8, 0#8⟩, uartRx := [7#8] }

/-- HeaderByteIsAccumulated: the third header byte. -/
theorem witness_header_byte :
    ∃ s : State, s.rxEn = true ∧ s.uartRx = 3#8 :: [] ∧ s.rxState = .awaitHdr ∧ s.hdrCnt.toNat = 2 ∧ s.hdrCnt.toNat < 3 :=
  ⟨{ ready with uartRx := [3#8], hdrCnt := 2#2 }, rfl, rfl, rfl, rfl, by decide⟩

/-- HeaderOfADroppedFrame: one byte more than the capacity; the capacity with no buffer free. -/
theorem witness_dropped_header :
    (let s := fourth 0x81#8 0x01#8 ready
     s.rxEn = true ∧ s.uartRx = 7#8 :: [] ∧ s.rxState = .awaitHdr ∧ s.hdrCnt = 3#2 ∧
       (385#16 : Half).toNat = s.hdrBuf.b0.toNat + 256 * s.hdrBuf.b1.toNat ∧ s.cfg.rxBufCap < (385#16 : Half).toNat) ∧
    (let s := fourth 0x80#8 0x01#8 allHeld
     s.rxEn = true ∧ s.hdrCnt = 3#2 ∧ (384#16 : Half).toNat = s.hdrBuf.b0.toNat + 256 * s.hdrBuf.b1.toNat ∧
       (384#16 : Half).toNat ≤ s.cfg.rxBufCap ∧ ∀ i < s.cfg.rxPoolN, s.isFree .rx i = false) := by decide

/-- HeaderOfAStoredFrame: the last buffer free; lengths 0, 1 and the capacity. -/
theorem witness_stored_header :
    lastFree.Shaped ∧ lastFree.buf? .rx 7 = some Buffer.reset ∧ Buffer.reset.owner = .free ∧
    (∀ j < 7, lastFree.isFree .rx j = false) ∧
    (let s := fourth 0#8 0#8 lastFree
     s.Shaped ∧ s.rxEn = true ∧ s.uartRx = 7#8 :: [] ∧ s.rxState = .awaitHdr ∧ s.hdrCnt = 3#2 ∧
       (0#16 : Half).toNat = s.hdrBuf.b0.toNat + 256 * s.hdrBuf.b1.toNat) ∧
    (let s := fourth 1#8 0#8 lastFree
     (1#16 : Half).toNat = s.hdrBuf.b0.toNat + 256 * s.hdrBuf.b1.toNat) ∧
    (let s := fourth 0x80#8 0x01#8 lastFree
     (384#16 : Half).toNat = s.hdrBuf.b0.toNat + 256 * s.hdrBuf.b1.toNat ∧ (384#16 : Half).toNat ≤ s.cfg.rxBufCap) := by decide

/-- Buffer 0 is being filled and `n` bytes remain. -/
def filling (n : Half) (b : Buffer) : State :=
  { withRx b with rxState := .awaitPayload, rxRemaining := n, uartRx := [9#8] }

/-- PayloadByteIsStoredAtTheTail: two bytes to go, and the last byte of a full buffer. -/
theorem witness_payload_byte :
    (let b := buffer .receiver 0#16 382#16 []
     let s := filling 2#16 b
     s.Shaped ∧ s.rxEn = true ∧ s.uartRx = 9#8 :: [] ∧ s.rxState = .awaitPayload ∧ s.buf? .rx s.rxBufIdx.toNat = some b ∧
       b.data.wf ∧ b.head.toNat + b.len.toNat < s.cfg.rxBufCap ∧ 2 ≤ s.rxRemaining.toNat) ∧
    (let b := buffer .receiver 0#16 383#16 []
     let s := filling 1#16 b
     s.Shaped ∧ s.buf? .rx s.rxBufIdx.toNat = some b ∧ b.head.toNat + b.len.toNat < s.cfg.rxBufCap ∧
       s.rxRemaining.toNat = 1) := by decide

/-- DiscardedByteIsOnlyCounted: the last byte. -/
theorem witness_discard :
    ∃ s : State, s.rxEn = true ∧ s.uartRx = 9#8 :: [] ∧ s.rxState = .discard ∧ 1 ≤ s.rxRemaining.toNat :=
  ⟨{ ready with rxState := .discard, rxRemaining := 1#16, uartRx := [9#8] }, rfl, rfl, rfl, by decide⟩

/-- ReceiverHoldsWithoutEnableOrByte, either way; ReceiverTakesTheFrontByteWhateverData. -/
theorem witness_receiver_enabled :
    State.reset.rxEn = false ∧ ready.uartRx = [] ∧ midway.rxEn = true ∧ midway.uartRx = 9#8 :: [] := by decide

/-- An instance with receive buffers of two bytes, ready, and the frame of the given payload at the UART. -/
def receiving (free : Bool) (payload : List Byte) : State :=
  { State.fresh { rxPoolN := 1, txPoolN := 1, rxBufCap := 2, txBufCap := 4, nCmdPorts := 1 } with
    rxEn := true, initPhase := .ready
    rxPool := [if free then Buffer.reset else buffer .client 0#16 0#16 []]
    uartRx := frameBytes 5#8 7#8 payload ++ [], schedule := rxEvents (frameBytes 5#8 7#8 payload) ++ [] }

/-- ReceiverDeliversTheFrame: a payload that fills the buffer. -/
theorem witness_delivered :
    (receiving true [1#8, 2#8]).Inv ∧ (receiving true [1#8, 2#8]).rxEn = true ∧
    (receiving true [1#8, 2#8]).rxState = .awaitHdr ∧ (receiving true [1#8, 2#8]).hdrCnt = 0#2 ∧
    [1#8, 2#8].length ≤ (receiving true [1#8, 2#8]).cfg.rxBufCap ∧
    (receiving true [1#8, 2#8]).buf? .rx 0 = some Buffer.reset ∧ Buffer.reset.owner = .free ∧
    (∀ j < 0, (receiving true [1#8, 2#8]).isFree .rx j = false) ∧
    (receiving true [1#8, 2#8]).uartRx = frameBytes 5#8 7#8 [1#8, 2#8] ++ [] ∧
    (receiving true [1#8, 2#8]).schedule = rxEvents (frameBytes 5#8 7#8 [1#8, 2#8]) ++ [] :=
  ⟨⟨by decide, by decide, by decide, by decide, by decide, by decide, by decide, by decide, by decide, by decide⟩, rfl, rfl, rfl,
    by decide, rfl, rfl, by decide, rfl, rfl⟩

/-- DroppedFrameIsDrainedByteForByte: one byte too long with a buffer free; a fitting one with none free. -/
theorem witness_drained :
    (receiving true [1#8, 2#8, 3#8]).Inv ∧ (receiving true [1#8, 2#8, 3#8]).rxState = .awaitHdr ∧
    (3#16 : Half).toNat = [1#8, 2#8, 3#8].length ∧ (receiving true [1#8, 2#8, 3#8]).cfg.rxBufCap < [1#8, 2#8, 3#8].length ∧
    (receiving false [1#8, 2#8]).Inv ∧ (2#16 : Half).toNat = [1#8, 2#8].length ∧
    (∀ i < (receiving false [1#8, 2#8]).cfg.rxPoolN, (receiving false [1#8, 2#8]).isFree .rx i = false) :=
  ⟨⟨by decide, by decide, by decide, by decide, by decide, by decide, by decide, by decide, by decide, by decide⟩, rfl, rfl,
    by decide, ⟨by decide, by decide, by decide, by decide, by decide, by decide, by decide, by decide, by decide, by decide⟩, rfl,
    by decide⟩

/-- InitStartsTheSequence, InitAnswerToDisable (both answers), InitAnswerToEnable. -/
theorem witness_init :
    ready.initPhase ≠ .uninit ∧ State.reset.initPhase = .uninit ∧ State.reset.uartBound = true ∧
    ({ State.reset with uartBound := false } : State).uartBound = false ∧ disabling.InitAgrees ∧
    disabling.port? 0 = some { Port.reset with state := .initDisable } ∧ (1#32 : Word) ≠ 0#32 ∧ enabling.InitAgrees ∧
    enabling.port? 0 = some { Port.reset with state := .initEnable } :=
  ⟨by decide, rfl, rfl, rfl, by decide, rfl, by decide, by decide, rfl⟩

/-- CsrRdAnswersTheCsr: the last CSR and the first number that is none. -/
theorem witness_csr : 0x0E < 0x0F ∧ 0x0E ≤ 0x0E := by decide

/-- QueueAndFramerCsrsShowThem, with an empty and a full FIFO, the framer idle and busy; FaultAndConfigCsrsShowThem. -/
theorem witness_csr_views :
    ready.q.length ≤ 32 ∧ ready.q = [] ∧ ready.txBusy = false ∧
    ({ ready with q := List.replicate 32 1#5 } : State).q.length ≤ 32 ∧ queued.q = 3#5 :: [5#5] ∧ midway.txBusy = true ∧
    (midway.buf? .tx midway.txIdx.toNat).isSome = true ∧ midway.cfg.Valid := by decide

/-- ArrivingByteIsAppendedOrLost: the FIFO just full, with room for one, and unbounded. -/
theorem witness_arrive :
    (∀ d, midway.cfg.uartRxFifoDepth = some d → d ≤ midway.uartRx.length) ∧
    (∀ d, ({ midway with uartRx := [] } : State).cfg.uartRxFifoDepth = some d → 0 < d) ∧
    (∀ d, ready.cfg.uartRxFifoDepth = some d → ready.uartRx.length < d) := by
  refine ⟨fun d h => ?_, fun d h => ?_, fun d h => ?_⟩ <;> cases h <;> decide

/-- InvariantHoldsAfterReset: the smallest and the largest legal instance. -/
theorem witness_valid :
    Config.Valid { rxPoolN := 1, txPoolN := 1, rxBufCap := 1, txBufCap := 4, nCmdPorts := 1, uartRxFifoDepth := some 1 } ∧
    Config.Valid { rxPoolN := 32, txPoolN := 32, rxBufCap := 65535, txBufCap := 65535, nCmdPorts := 255 } := by decide

/-- The framer's last byte is due. -/
def due : State := { midway with schedule := [.framer true] }

/-- Every whole-machine statement about a step from a state with the invariant: EveryStepKeepsTheInvariant,
NoStepFaultsUnderTheInvariant, UnwrittenBytesAreNeverSeen, OwnersChangeOnlyAlongTheLegalSequences,
UnownedBuffersAreNotTouched, FifoOnlyPushesAndPops, OutputsAreAppendOnly, ParametersAndBuffersAreFixed,
OnlyListedCodesAreProduced. -/
theorem witness_step :
    due.Inv ∧ due.resetNotDue ∧ due.allPorts (fun _ x => producedCode x.rspCode) ∧ (∃ t, step due = .next t) ∧
    (due.buf? .rx 0).map (·.owner) = some .queue :=
  ⟨⟨by decide, by decide, by decide, by decide, by decide, by decide, by decide, by decide, by decide, by decide⟩, by decide,
    by decide, ⟨_, rfl⟩, by decide⟩

/-- UnwrittenBytesAreNeverSeen: a step that is refused. -/
theorem witness_step_refused :
    ({ midway with schedule := [.answer 0#32] } : State).resetNotDue ∧
    step { midway with schedule := [.answer 0#32] } = .refused .answerWithoutCall := ⟨by decide, rfl⟩

/-- UnownedBuffersAreNotTouched and OwnersChangeOnlyAlongTheLegalSequences, on a FREE buffer that ALLOC takes. -/
theorem witness_step_alloc :
    (∃ t, step { State.reset with schedule := [.command 1 0x01800004#32] } = .next t ∧
      (t.buf? .tx 0).map (·.owner) = some .client) ∧
    (State.reset.buf? .tx 0).map (·.owner) = some .free := ⟨⟨_, rfl, rfl⟩, rfl⟩

/-- FirstFaultStaysUntilReset: a fault after a fault. -/
theorem witness_second_fault :
    ∃ s t : State, s.resetNotDue ∧ s.faultValid = true ∧ step s = .next t :=
  ⟨{ State.reset with faultValid := true, faultCause := 0x15#8, schedule := [.command 0 0x08000000#32] }, _, by decide, rfl, rfl⟩

/-- CommandsLeaveTheReceiverAlone, EventsLeaveTheCommandSideAlone, ReadsAreIdempotent. -/
theorem witness_exec :
    isEvent (.alloc .rx 0) = false ∧ (∃ t, exec (.alloc .rx 0) midway = .next t) ∧ isEvent (.rxByte 9#8) = true ∧
    (∃ t, exec (.rxByte 9#8) midway = .next t) ∧ readsOnly (.bufRd .rx 2 3) = true ∧
    (∃ t, exec (.bufRd .rx 2 3) midway = .next t) := ⟨rfl, ⟨_, rfl⟩, rfl, ⟨_, rfl⟩, rfl, ⟨_, rfl⟩⟩

/-- CommandsLeaveTheReceiverAlone, the later steps: a word placed, a held DEQ, a framer step, and each answer to INIT's calls. -/
theorem witness_later_steps :
    (∃ t, act (.command 1 0x01800004#32) State.reset = .next t) ∧ (∃ t, act (.port 0) midway = .next t) ∧
    (∃ t, act (.framer true) midway = .next t) ∧ (∃ t, act (.answer 0#32) disabling = .next t ∧ t.rxEn = true) ∧
    (∃ t, act (.answer 1#32) disabling = .next t ∧ t.rxEn = false) ∧ (∃ t, act (.answer 0#32) enabling = .next t) :=
  ⟨⟨_, rfl⟩, ⟨_, rfl⟩, ⟨_, rfl⟩, ⟨_, rfl, rfl⟩, ⟨_, rfl, rfl⟩, ⟨_, rfl⟩⟩

/-- OnlyListedCodesAreProduced: a port to respond on. ReadsAreIdempotent: a read that faults. -/
theorem witness_response :
    State.reset.port? 1 = some Port.reset ∧ readsOnly (.csrRd 0x0F) = true ∧ (∃ t, exec (.csrRd 0x0F) State.reset = .next t) :=
  ⟨rfl, rfl, ⟨_, rfl⟩⟩

/-- The answer to `disable()` that comes after a reset is refused, the model's choice (log 23). -/
theorem test_late_answer_is_refused :
    after (act .reset disabling) (fun t => t.calling? = none) = true ∧
    act (.answer 0#32) (blockReset disabling) = .refused .answerWithoutCall := ⟨by decide, rfl⟩

/-- QuiescentStateIsStill: a port holding a DEQ on an empty FIFO, bytes waiting for a disabled receiver. -/
theorem witness_quiescent :
    ∃ s : State, s.Quiescent ∧ s.ports.length = s.cfg.nCmdPorts ∧ decodeEvent 0x103#10 = .ok (.rxByte 3#8) :=
  ⟨{ State.reset with uartRx := [3#8], ports := [{ Port.reset with state := .holdDeq }, Port.reset] }, by decide, rfl, rfl⟩

end Sys2Proof.Tests
end

section
/-! PROOFS. What every step keeps fixed: the parameters, and, but for reset, the number of buffers and of ports (10_state.md R58,
40_pool.md R141). One lemma for each operation that gives an outcome. -/

namespace Sys2Proof.Machine

/-- What R58 and R141 hold fixed: the parameters, and how many buffers and ports there are. -/
def State.sizes (s : State) : Config × Nat × Nat × Nat := (s.cfg, s.rxPool.length, s.txPool.length, s.ports.length)

/-- Every next state of the outcome has the sizes of `s`. -/
def KeepsSizes (s : State) (o : Out) : Prop := ∀ t, o = .next t → t.sizes = s.sizes

@[simp] theorem keepsSizes_next {s t : State} : KeepsSizes s (.next t) ↔ t.sizes = s.sizes := by simp [KeepsSizes]

@[simp] theorem keepsSizes_fault (s : State) (r : Fault) : KeepsSizes s (.fault r) := by simp [KeepsSizes]

@[simp] theorem keepsSizes_refused (s : State) (r : Refusal) : KeepsSizes s (.refused r) := by simp [KeepsSizes]

/-- An outcome keeps the sizes of every state that has the same ones. -/
theorem KeepsSizes.of_eq {s s' : State} {o : Out} (h : KeepsSizes s' o) (e : s'.sizes = s.sizes) : KeepsSizes s o :=
  fun t ht => (h t ht).trans e

/-! ### The shared operations -/

@[simp] theorem State.sizes_updBuf (s : State) (p : Pool) (i : Nat) (f : Buffer → Buffer) :
    (s.updBuf p i f).sizes = s.sizes := by
  cases p <;> simp [State.sizes, State.updBuf, State.setPool, State.pool]

@[simp] theorem State.sizes_updPort (s : State) (k : Nat) (f : Port → Port) : (s.updPort k f).sizes = s.sizes := by
  simp [State.sizes, State.updPort]

@[simp] theorem State.sizes_recordFault (s : State) (c : Cause) : (s.recordFault c).sizes = s.sizes := by
  simp [State.sizes]

@[simp] theorem State.sizes_raise (s : State) (k : Nat) (c : Cause) : (s.raise k c).sizes = s.sizes := by
  simp [State.raise]

theorem State.sizes_poolAlloc? {s t : State} {p : Pool} {r i : Nat} {o : Owner} (h : s.poolAlloc? p r o = some (i, t)) :
    t.sizes = s.sizes := by
  unfold State.poolAlloc? at h
  split at h
  · cases h
  · cases h; simp

theorem State.sizes_bufWrite? {s t : State} {p : Pool} {i j : Nat} {v : Byte} (h : s.bufWrite? p i j v = some t) :
    t.sizes = s.sizes := by
  obtain ⟨-, -, rfl⟩ := State.bufWrite?_eq_some.mp h
  simp

theorem State.sizes_bufWrites? {p : Pool} {i : Nat} (vs : List Byte) :
    ∀ {s t : State} {j : Nat}, s.bufWrites? p i j vs = some t → t.sizes = s.sizes := by
  induction vs with
  | nil => intro s t j h; cases h; rfl
  | cons v vs ih =>
    intro s t j h
    obtain ⟨u, hu, h⟩ := State.bufWrites?_cons.mp h
    exact (ih h).trans (State.sizes_bufWrite? hu)

@[simp] theorem sizes_txFault (k : Nat) (c : Cause) (s : State) : (txFault k c s).sizes = s.sizes := by simp [txFault]

@[simp] theorem sizes_txHandoff (k i : Nat) (s : State) : (txHandoff k i s).sizes = s.sizes :=
  (State.sizes_updPort ..).trans (State.sizes_updBuf s .tx i _)

@[simp] theorem sizes_txComplete (s : State) : (txComplete s).sizes = s.sizes :=
  ((State.sizes_updPort ..).trans (State.sizes_updPort ..)).trans (State.sizes_updBuf s .tx s.txIdx.toNat _)

@[simp] theorem sizes_payloadDone (i : Nat) (s : State) : (payloadDone i s).sizes = s.sizes := State.sizes_updBuf s .rx i _

@[simp] theorem sizes_startPayload (i : Nat) (l : Half) (chan src : Byte) (s : State) :
    (startPayload i l chan src s).sizes = s.sizes := State.sizes_updBuf s .rx i _

@[simp] theorem sizes_zeroFrame (i : Nat) (chan src : Byte) (s : State) : (zeroFrame i chan src s).sizes = s.sizes :=
  State.sizes_updBuf s .rx i _

@[simp] theorem sizes_exhausted (l : Half) (s : State) : (exhausted l s).sizes = s.sizes := by
  unfold exhausted
  split <;> rfl

@[simp] theorem sizes_headerComplete (l : Half) (chan src : Byte) (s : State) :
    (headerComplete l chan src s).sizes = s.sizes := by
  unfold headerComplete
  split
  · rfl
  split
  · simp
  · next h => split <;> simpa using State.sizes_poolAlloc? h

@[simp] theorem sizes_headerByte (b : Byte) (s : State) : (headerByte b s).sizes = s.sizes := by
  unfold headerByte
  dsimp only
  split
  · exact sizes_headerComplete ..
  · rfl

/-! ### The commands -/

theorem execInit_keepsSizes (s : State) : KeepsSizes s (execInit s) := by
  unfold execInit
  split
  · simp
  split
  · simp
  · exact keepsSizes_next.mpr (State.sizes_updPort ..)

theorem execCsrRd_keepsSizes (c : Nat) (s : State) : KeepsSizes s (execCsrRd c s) := by
  unfold execCsrRd
  split <;> simp

theorem execAlloc_keepsSizes (p : Pool) (r : Nat) (s : State) : KeepsSizes s (execAlloc p r s) := by
  unfold execAlloc
  split
  · simp
  split
  · simp
  · next h => simpa using State.sizes_poolAlloc? h

theorem execRelease_keepsSizes (p : Pool) (i : Nat) (s : State) : KeepsSizes s (execRelease p i s) := by
  unfold execRelease
  split <;> simp

theorem execBufAdd_keepsSizes (p : Pool) (i : Nat) (v : Byte) (s : State) : KeepsSizes s (execBufAdd p i v s) := by
  unfold execBufAdd
  split
  · simp
  dsimp only
  split
  · simp
  split
  · simp
  · next h => simpa using State.sizes_bufWrite? h

theorem execBufPull_keepsSizes (p : Pool) (i n : Nat) (s : State) : KeepsSizes s (execBufPull p i n s) := by
  unfold execBufPull
  split
  · simp
  split <;> simp

theorem execBufRd_keepsSizes (p : Pool) (i o : Nat) (s : State) : KeepsSizes s (execBufRd p i o s) := by
  unfold execBufRd
  split
  · simp
  split
  · simp
  split <;> simp

theorem execBufInfo_keepsSizes (p : Pool) (i : Nat) (s : State) : KeepsSizes s (execBufInfo p i s) := by
  unfold execBufInfo
  split <;> simp

theorem execBufHdr_keepsSizes (p : Pool) (i : Nat) (s : State) : KeepsSizes s (execBufHdr p i s) := by
  unfold execBufHdr
  split
  · simp
  split <;> simp

theorem deqComplete_keepsSizes (i : BitVec 5) (q : List (BitVec 5)) (s : State) : KeepsSizes s (deqComplete i q s) := by
  unfold deqComplete
  split
  · simp
  · simp only [State.respond_eq, State.setPortState_eq, State.setOwner_eq, keepsSizes_next, State.sizes_updPort,
      State.sizes_updBuf]
    rfl

theorem execDeq_keepsSizes (s : State) : KeepsSizes s (execDeq s) := by
  unfold execDeq
  split
  · simp
  split
  · simp
  · exact deqComplete_keepsSizes _ _ s

theorem txAccept_keepsSizes (k i : Nat) (s : State) : KeepsSizes s (txAccept k i s) := by
  unfold txAccept
  split
  · simp
  split
  · simp
  split
  · simp
  split
  · simp
  · next h => simpa using State.sizes_bufWrites? _ h

theorem execTx_keepsSizes (p : Pool) (i : Nat) (s : State) : KeepsSizes s (execTx p i s) := by
  unfold execTx
  split
  · simp
  split
  · simp
  split
  · simp
  · exact txAccept_keepsSizes _ i s

/-! ### The receiver, the framer and the collaborator -/

theorem payloadByte_keepsSizes (v : Byte) (s : State) : KeepsSizes s (payloadByte v s) := by
  unfold payloadByte
  dsimp only
  split
  · simp
  split
  · simp
  split
  · simp
  · next t h =>
    have hu (f : Buffer → Buffer) : (t.updBuf .rx s.rxBufIdx.toNat f).sizes = s.sizes :=
      (State.sizes_updBuf ..).trans (State.sizes_bufWrite? h)
    split
    · exact keepsSizes_next.mpr ((sizes_payloadDone ..).trans (hu _))
    · exact keepsSizes_next.mpr (hu _)

theorem discardByte_keepsSizes (s : State) : KeepsSizes s (discardByte s) := by
  unfold discardByte
  split
  · simp
  dsimp only
  split <;> exact keepsSizes_next.mpr rfl

theorem receiveByte_keepsSizes (b : Byte) (s : State) : KeepsSizes s (receiveByte b s) := by
  unfold receiveByte
  split
  · simp
  · exact payloadByte_keepsSizes b s
  · exact discardByte_keepsSizes s

theorem execRxByte_keepsSizes (d : Byte) (s : State) : KeepsSizes s (execRxByte d s) := by
  unfold execRxByte
  split
  · split
    · simp
    · exact (receiveByte_keepsSizes _ _).of_eq rfl
  · simp

theorem framerStep_keepsSizes (ready : Bool) (s : State) : KeepsSizes s (framerStep ready s) := by
  unfold framerStep
  split
  · split
    · simp
    split
    · simp
    dsimp only
    split
    · exact keepsSizes_next.mpr (sizes_txComplete ..)
    · exact keepsSizes_next.mpr rfl
  · simp

theorem portStep_keepsSizes (k : Nat) (s : State) : KeepsSizes s (portStep k s) := by
  unfold portStep
  split
  · simp
  split
  · split
    · simp
    · exact deqComplete_keepsSizes _ _ s
  · split
    · simp
    · exact txAccept_keepsSizes k _ s
  all_goals simp

theorem sizes_initDisabled (k : Nat) (x : Word) (s : State) : (initDisabled k x s).sizes = s.sizes := by
  unfold initDisabled
  split
  · exact (State.sizes_updPort ..).trans (State.sizes_updPort ..)
  · exact State.sizes_updPort ..

theorem sizes_initEnabled (k : Nat) (x : Word) (s : State) : (initEnabled k x s).sizes = s.sizes := by
  unfold initEnabled
  dsimp only
  split <;> exact (State.sizes_updPort ..).trans (State.sizes_updPort ..)

theorem collaboratorAnswer_keepsSizes (x : Word) (s : State) : KeepsSizes s (collaboratorAnswer x s) := by
  unfold collaboratorAnswer
  split
  · simp
  split
  · simpa using sizes_initDisabled ..
  · simpa using sizes_initEnabled ..

theorem sizes_uartArrive (b : Byte) (s : State) : (uartArrive b s).sizes = s.sizes := by
  unfold uartArrive
  split <;> rfl

/-! ### Every instruction, every action, every step -/

/-- No instruction changes the sizes (R58, R141). -/
theorem exec_keepsSizes (i : Instr) (s : State) : KeepsSizes s (exec i s) := by
  cases i with
  | nop => exact keepsSizes_next.mpr (State.sizes_updPort ..)
  | alloc p r => exact execAlloc_keepsSizes p r s
  | release p j => exact execRelease_keepsSizes p j s
  | bufAdd p j b => exact execBufAdd_keepsSizes p j b s
  | bufPull p j n => exact execBufPull_keepsSizes p j n s
  | bufRd p j o => exact execBufRd_keepsSizes p j o s
  | bufInfo p j => exact execBufInfo_keepsSizes p j s
  | bufHdr p j => exact execBufHdr_keepsSizes p j s
  | deq => exact execDeq_keepsSizes s
  | tx p j => exact execTx_keepsSizes p j s
  | init => exact execInit_keepsSizes s
  | csrRd c => exact execCsrRd_keepsSizes c s
  | rxByte d => exact execRxByte_keepsSizes d s
  | spurious | txReady => exact keepsSizes_next.mpr rfl

/-- No action but reset changes the sizes, whatever the state. -/
theorem act_keepsSizes {a : Action} (ha : a ≠ .reset) (s : State) : KeepsSizes s (act a s) := by
  cases a with
  | command k w =>
    intro t h
    obtain ⟨x, -, -, ⟨i, -, hi⟩ | ⟨c, -, rfl⟩⟩ := act_command_next h
    · exact exec_keepsSizes i { s with cmdPort := k } t hi
    · exact State.sizes_raise ..
  | event w =>
    intro t h
    obtain ⟨i, -, -, hi⟩ := act_event_next h
    exact exec_keepsSizes i s t hi
  | port k => exact portStep_keepsSizes k s
  | framer ready => exact framerStep_keepsSizes ready s
  | answer x => exact collaboratorAnswer_keepsSizes x s
  | arrive b => exact keepsSizes_next.mpr (sizes_uartArrive b s)
  | bind v => exact keepsSizes_next.mpr rfl
  | reset => exact absurd rfl ha

/-- No action changes the parameters, reset included (R6, R340). -/
theorem act_keeps_cfg {a : Action} {s t : State} (h : act a s = .next t) : t.cfg = s.cfg := by
  by_cases ha : a = .reset
  · subst ha
    obtain rfl := Host.Outcome.next.inj ((act_reset s).symm.trans h)
    rfl
  · exact congrArg Prod.fst (act_keepsSizes ha s t h)

/-- No step changes the parameters (R6). -/
theorem step_keeps_cfg {s t : State} (h : step s = .next t) : t.cfg = s.cfg := by
  obtain ⟨-, rfl⟩ | ⟨a, rest, -, ha⟩ := step_next_cases h
  · rfl
  · exact (act_keeps_cfg ha : t.cfg = { s with schedule := rest }.cfg)

end Sys2Proof.Machine
end

section
/-! PROOFS. The CSRs (10_state.md R36 to R43): each as a number of its fields, each field read back, and what no step changes of
the parameters that CONFIG0 and CONFIG1 show. -/

namespace Sys2Proof.Machine

/-! ### A field of a word from the word as a number -/

/-- A field `v[hi:lo]` (R9) is `x` where the number of `v` says so. -/
theorem field_eq {w hi lo : Nat} {v : BitVec w} {x : BitVec (hi - lo + 1)}
    (h : v.toNat / 2 ^ lo % 2 ^ (hi - lo + 1) = x.toNat) : v.extractLsb hi lo = x :=
  BitVec.eq_of_toNat_eq ((toNat_field hi lo v).trans h)

/-- A field `v[hi:lo]` reads 0 where the number of `v` says so. -/
theorem field_eq_zero {w hi lo : Nat} {v : BitVec w} (h : v.toNat / 2 ^ lo % 2 ^ (hi - lo + 1) = 0) :
    v.extractLsb hi lo = 0 :=
  field_eq (h.trans BitVec.toNat_zero.symm)

/-! ### Each CSR as a number of its fields -/

/-- RX_CTRL (R37). -/
theorem State.csr?_rxCtrl (s : State) :
    ∃ v, s.csr? 0x00 = some v ∧ v.toNat = (BitVec.ofBool s.rxEn).toNat + 2 * s.initPhase.bits.toNat :=
  ⟨_, rfl, by simp only [toNat_append_eq, BitVec.toNat_ofNat]; omega⟩

/-- RX_STATUS (R38). -/
theorem State.csr?_rxStatus (s : State) :
    ∃ v, s.csr? 0x01 = some v ∧ v.toNat = s.rxState.bits.toNat + 2 ^ 2 * s.hdrCnt.toNat :=
  ⟨_, rfl, by simp only [toNat_append_eq, BitVec.toNat_ofNat]; omega⟩

/-- RX_REMAINING (R39). -/
theorem State.csr?_rxRemaining (s : State) : ∃ v, s.csr? 0x02 = some v ∧ v.toNat = s.rxRemaining.toNat :=
  ⟨_, rfl, by simp only [toNat_append_eq, BitVec.toNat_ofNat]; omega⟩

/-- RX_HDR_LEN (R40). -/
theorem State.csr?_rxHdrLen (s : State) :
    ∃ v, s.csr? 0x03 = some v ∧ v.toNat = s.hdrBuf.b0.toNat + 256 * s.hdrBuf.b1.toNat :=
  ⟨_, rfl, by simp only [toNat_append_eq, le16_toNat, BitVec.toNat_ofNat]; omega⟩

/-- RX_HDR_CHSRC (R40). -/
theorem State.csr?_rxHdrChsrc (s : State) :
    ∃ v, s.csr? 0x04 = some v ∧ v.toNat = s.hdrBuf.b2.toNat + 2 ^ 8 * s.hdrBuf.b3.toNat :=
  ⟨_, rfl, by simp only [toNat_append_eq, BitVec.toNat_ofNat]; omega⟩

/-- RX_CUR_BUF (R41). -/
theorem State.csr?_rxCurBuf (s : State) :
    ∃ v, s.csr? 0x05 = some v ∧
      v.toNat = s.rxBufIdx.toNat + 2 ^ 31 * (BitVec.ofBool (s.rxState = .awaitPayload)).toNat :=
  ⟨_, rfl, by simp only [toNat_append_eq, BitVec.toNat_ofNat]; omega⟩

/-- Q_COUNT (R42): the count fits its six bits. -/
theorem State.csr?_qCount {s : State} (h : s.q.length ≤ 32) : ∃ v, s.csr? 0x08 = some v ∧ v.toNat = s.q.length :=
  ⟨_, rfl, by simp only [toNat_append_eq, BitVec.toNat_ofNat]; omega⟩

/-- Q_HEAD (R42). -/
theorem State.csr?_qHead (s : State) :
    ∃ v, s.csr? 0x09 = some v ∧ v.toNat = s.qHead.toNat + 2 ^ 31 * (BitVec.ofBool (!s.q.isEmpty)).toNat :=
  ⟨_, rfl, by simp only [toNat_append_eq, BitVec.toNat_ofNat]; omega⟩

/-- TX_STATUS (R42). -/
theorem State.csr?_txStatus (s : State) :
    ∃ v, s.csr? 0x0A = some v ∧
      v.toNat = (BitVec.ofBool s.txBusy).toNat + 2 ^ 8 * s.txIdx.toNat + 2 ^ 16 * s.txPort.toNat :=
  ⟨_, rfl, by simp only [toNat_append_eq, BitVec.toNat_ofNat]; omega⟩

/-- TX_POS (R42). -/
theorem State.csr?_txPos (s : State) :
    ∃ v, s.csr? 0x0B = some v ∧ v.toNat = s.txPos.toNat + 2 ^ 16 * s.txLen.toNat :=
  ⟨_, rfl, by simp only [toNat_append_eq]; omega⟩

/-- FAULT (R43). -/
theorem State.csr?_fault (s : State) :
    ∃ v, s.csr? 0x0C = some v ∧ v.toNat = s.faultCause.toNat + 2 ^ 8 * (BitVec.ofBool s.faultValid).toNat :=
  ⟨_, rfl, by simp only [toNat_append_eq, BitVec.toNat_ofNat]; omega⟩

/-- CONFIG0 (R43): legal numbers fit their bytes. -/
theorem State.csr?_config0 {s : State} (h : s.cfg.Valid) :
    ∃ v, s.csr? 0x0D = some v ∧
      v.toNat = s.cfg.rxPoolN + 2 ^ 8 * s.cfg.txPoolN + 2 ^ 16 * s.cfg.nCmdPorts + 2 ^ 24 * 4 := by
  obtain ⟨⟨_, hr⟩, ⟨_, ht⟩, -, -, ⟨_, hp⟩, -⟩ := h
  exact ⟨_, rfl, by simp only [toNat_append_eq, BitVec.toNat_ofNat, Config.hdrLen]; omega⟩

/-- CONFIG1 (R43): legal capacities are 16-bit numbers. -/
theorem State.csr?_config1 {s : State} (h : s.cfg.Valid) :
    ∃ v, s.csr? 0x0E = some v ∧ v.toNat = s.cfg.rxBufCap + 2 ^ 16 * s.cfg.txBufCap := by
  obtain ⟨-, -, ⟨_, hr⟩, ⟨_, ht⟩, -⟩ := h
  exact ⟨_, rfl, by simp only [toNat_append_eq, BitVec.toNat_ofNat]; omega⟩

/-- CONFIG0 and CONFIG1 depend on the parameters only (R43). -/
theorem State.csr?_config_congr {s t : State} (h : t.cfg = s.cfg) :
    t.csr? 0x0D = s.csr? 0x0D ∧ t.csr? 0x0E = s.csr? 0x0E := by
  simp [State.csr?, h]

/-! ### The views behind Q_HEAD, TX_POS and the free maps -/

theorem State.qHead_nil {s : State} (h : s.q = []) : s.qHead = 0 := by simp [State.qHead, h]

theorem State.qHead_cons {s : State} {i : BitVec 5} {rest : List (BitVec 5)} (h : s.q = i :: rest) : s.qHead = i := by
  simp [State.qHead, h]

theorem State.txLen_idle {s : State} (h : s.txBusy = false) : s.txLen = 0 := by simp [State.txLen, h]

theorem State.txLen_busy {s : State} {b : Buffer} (h : s.txBusy = true) (hb : s.buf? .tx s.txIdx.toNat = some b) :
    s.txLen = b.len := by
  simp [State.txLen, h, hb]

/-- Bit `i` of the free map's low `n` bits (R41). -/
theorem State.getLsbD_freeMapBits (s : State) (p : Pool) {n i : Nat} (h : i < n) :
    (s.freeMapBits p n).getLsbD i = s.isFree p i := by
  induction n with
  | zero => omega
  | succ n ih =>
    rw [State.freeMapBits, BitVec.getLsbD_cons]
    by_cases e : i = n
    · simp [e]
    · simp [e, ih (by omega)]

/-- Bit `i` of a free map is 1 exactly if buffer `i` exists and is FREE (R41). -/
theorem State.getLsbD_freeMap (s : State) (p : Pool) {i : Nat} (h : i < 32) :
    (s.freeMap p).getLsbD i = true ↔ ∃ b, s.buf? p i = some b ∧ b.owner = .free := by
  rw [State.freeMap, State.getLsbD_freeMapBits s p h, State.isFree_iff]

/-! ### The statements -/

/-- Settles O40: each CSR is a number of its fields, and each field is read back from it. -/
theorem receiverCsrsShowTheReceiver : Obligations.ReceiverCsrsShowTheReceiver := by
  intro s
  obtain ⟨c0, e0, n0⟩ := s.csr?_rxCtrl
  obtain ⟨c1, e1, n1⟩ := s.csr?_rxStatus
  obtain ⟨c2, e2, n2⟩ := s.csr?_rxRemaining
  obtain ⟨c3, e3, n3⟩ := s.csr?_rxHdrLen
  obtain ⟨c4, e4, n4⟩ := s.csr?_rxHdrChsrc
  refine ⟨c0, c1, c2, c3, c4, ⟨e0, field_eq (by omega), field_eq_zero (by omega), ?_⟩,
    ⟨e1, field_eq (by omega), field_eq_zero (by omega), ?_⟩, ⟨e2, field_eq (by omega), field_eq_zero (by omega)⟩,
    ⟨e3, by rw [toNat_field]; omega, field_eq_zero (by omega)⟩,
    ⟨e4, field_eq (by omega), field_eq (by omega), field_eq_zero (by omega)⟩⟩
  · rw [field_eq (x := s.initPhase.bits) (by omega)]
    cases s.initPhase <;> rfl
  · rw [field_eq (x := s.rxState.bits) (by omega)]
    cases s.rxState <;> rfl

/-- Settles O41: by the same reading, with Q_HEAD by whether the FIFO is empty and TX_POS by whether the framer is busy. -/
theorem queueAndFramerCsrsShowThem : Obligations.QueueAndFramerCsrsShowThem := by
  intro s hq
  obtain ⟨c8, e8, n8⟩ := State.csr?_qCount hq
  obtain ⟨c9, e9, n9⟩ := s.csr?_qHead
  obtain ⟨cA, eA, nA⟩ := s.csr?_txStatus
  obtain ⟨cB, eB, nB⟩ := s.csr?_txPos
  have head : c9.extractLsb 4 0 = s.qHead := field_eq (by omega)
  have valid : c9.extractLsb 31 31 = BitVec.ofBool (!s.q.isEmpty) := field_eq (by omega)
  have len : cB.extractLsb 31 16 = s.txLen := field_eq (by omega)
  refine ⟨c8, c9, cA, cB, ⟨e8, by rw [toNat_field]; omega, field_eq_zero (by omega)⟩,
    ⟨e9, field_eq_zero (by omega), ?_, ?_⟩,
    ⟨eA, field_eq (by omega), field_eq (by omega), field_eq (by omega), field_eq_zero (by omega), field_eq_zero (by omega),
      field_eq_zero (by omega)⟩,
    ⟨eB, field_eq (by omega), fun h => len.trans (State.txLen_idle h), fun b h hb => len.trans (State.txLen_busy h hb)⟩⟩
  · intro h
    exact ⟨head.trans (State.qHead_nil h), valid.trans (by simp [h])⟩
  · intro i rest h
    exact ⟨head.trans (State.qHead_cons h), valid.trans (by simp [h])⟩

/-- Settles O42: by the same reading, and because CONFIG0 and CONFIG1 show the parameters, which no step changes. -/
theorem faultAndConfigCsrsShowThem : Obligations.FaultAndConfigCsrsShowThem := by
  intro s hv
  obtain ⟨cC, eC, nC⟩ := s.csr?_fault
  obtain ⟨cD, eD, nD⟩ := State.csr?_config0 hv
  obtain ⟨cE, eE, nE⟩ := State.csr?_config1 hv
  obtain ⟨⟨_, hr⟩, ⟨_, ht⟩, ⟨_, hrc⟩, ⟨_, htc⟩, ⟨_, hp⟩, -⟩ := hv
  refine ⟨cC, cD, cE, ⟨eC, field_eq (by omega), field_eq (by omega), field_eq_zero (by omega)⟩, ⟨eD, ?_⟩, ⟨eE, ?_⟩,
    fun t h => State.csr?_config_congr (step_keeps_cfg h)⟩
  · simp only [toNat_field]
    omega
  · simp only [toNat_field]
    omega

/-- Settles O43: RX_CUR_BUF by its fields, the free maps bit by bit. -/
theorem bufferCsrsShowTheCurrentAndTheFreeBuffers : Obligations.BufferCsrsShowTheCurrentAndTheFreeBuffers := by
  intro s
  obtain ⟨c5, e5, n5⟩ := s.csr?_rxCurBuf
  exact ⟨c5, s.freeMap .rx, s.freeMap .tx, rfl, rfl,
    ⟨e5, field_eq (by omega), field_eq_zero (by omega), field_eq (by omega)⟩,
    fun _ hi => ⟨s.getLsbD_freeMap .rx hi, s.getLsbD_freeMap .tx hi⟩⟩

end Sys2Proof.Machine
end

section
/-! PROOFS. The spec's example words (30_encoding.md R110), each decoded. -/

namespace Sys2Proof

/-- Settles O3: each word is fixed, and the decoder computes its instruction. -/
theorem specExampleWordsDecode : Obligations.SpecExampleWordsDecode :=
  ⟨rfl, rfl, rfl, rfl, rfl, rfl, rfl, rfl, rfl, rfl, rfl, rfl, rfl, rfl⟩

end Sys2Proof
end

section
/-! PROOFS. The response codes (30_encoding.md R106): the numbers that `respond` and `raise` put on a port are the listed ones,
and every operation leaves every port with a listed code. -/

namespace Sys2Proof.Machine

/-- Every port's last response has a code that R106 lists. Only the parameters and the ports are read, so a proof for `s` is one
for any state that differs from it in other fields. -/
def State.CodesListed (s : State) : Prop := s.allPorts (fun _ x => producedCode x.rspCode)

/-- Every next state of the outcome has listed codes on its ports. -/
def ListsCodes (o : Out) : Prop := ∀ t, o = .next t → t.CodesListed

@[simp] theorem listsCodes_next {t : State} : ListsCodes (.next t) ↔ t.CodesListed := by simp [ListsCodes]

@[simp] theorem listsCodes_fault (r : Fault) : ListsCodes (.fault r) := by simp [ListsCodes]

@[simp] theorem listsCodes_refused (r : Refusal) : ListsCodes (.refused r) := by simp [ListsCodes]

theorem Code.producedCode_byte (c : Code) : producedCode c.byte := by cases c <;> decide

theorem Cause.producedCode_byte (c : Cause) : producedCode c.byte := by cases c <;> decide

/-- A port that exists is below `N_CMD_PORTS`, so the bound in `allPorts` asks for nothing more. -/
theorem State.codesListed_iff {s : State} :
    s.CodesListed ↔ ∀ k x, s.port? k = some x → producedCode x.rspCode :=
  ⟨fun h k x hx => h k (State.lt_of_port? hx) x hx, fun h k _ x hx => h k x hx⟩

/-! ### The updates of a buffer or a port -/

theorem State.CodesListed.updBuf {s : State} (h : s.CodesListed) {p : Pool} {i : Nat} {f : Buffer → Buffer} :
    (s.updBuf p i f).CodesListed := by
  rw [State.codesListed_iff] at h ⊢
  simpa using h

/-- Changing a port keeps the codes listed where its new code is listed. -/
theorem State.CodesListed.updPort {s : State} (h : s.CodesListed) {k : Nat} {f : Port → Port}
    (hf : ∀ x, producedCode x.rspCode → producedCode (f x).rspCode) : (s.updPort k f).CodesListed := by
  rw [State.codesListed_iff] at h ⊢
  intro k' y hy
  rw [State.port?_updPort] at hy
  split at hy
  · obtain ⟨x, hx, rfl⟩ := Option.map_eq_some_iff.mp hy
    exact hf x (h k x hx)
  · exact h k' y hy

theorem State.CodesListed.setPortState {s : State} (h : s.CodesListed) {k : Nat} {x : PortState} :
    (s.setPortState k x).CodesListed := h.updPort fun _ hx => hx

theorem State.CodesListed.respond {s : State} (h : s.CodesListed) {k : Nat} {c : Code} {v : Word} :
    (s.respond k c v).CodesListed := h.updPort fun _ _ => c.producedCode_byte

theorem State.CodesListed.raise {s : State} (h : s.CodesListed) {k : Nat} {c : Cause} : (s.raise k c).CodesListed := by
  have hr : (s.setResponse k c.byte 0#32).CodesListed := h.updPort fun _ _ => c.producedCode_byte
  rw [State.codesListed_iff] at hr ⊢
  simpa only [State.raise, State.port?_recordFault] using hr

theorem State.CodesListed.poolAlloc? {s t : State} {p : Pool} {r i : Nat} {o : Owner} (h : s.CodesListed)
    (ht : s.poolAlloc? p r o = some (i, t)) : t.CodesListed := by
  unfold State.poolAlloc? at ht
  split at ht
  · cases ht
  · cases ht
    exact h.updBuf

theorem State.CodesListed.bufWrite? {s t : State} {p : Pool} {i j : Nat} {v : Byte} (h : s.CodesListed)
    (ht : s.bufWrite? p i j v = some t) : t.CodesListed := by
  obtain ⟨-, -, rfl⟩ := State.bufWrite?_eq_some.mp ht
  exact h.updBuf

theorem State.CodesListed.bufWrites? {p : Pool} {i : Nat} (vs : List Byte) :
    ∀ {s t : State} {j : Nat}, s.CodesListed → s.bufWrites? p i j vs = some t → t.CodesListed := by
  induction vs with
  | nil => intro s t j h ht; cases ht; exact h
  | cons v vs ih =>
    intro s t j h ht
    obtain ⟨u, hu, ht⟩ := State.bufWrites?_cons.mp ht
    exact ih (h.bufWrite? hu) ht

/-! ### The commands -/

section Commands
variable {s : State} (h : s.CodesListed)
include h

theorem listsCodes_execInit : ListsCodes (execInit s) := by
  unfold execInit
  split
  · exact listsCodes_next.mpr h.raise
  split
  · exact listsCodes_next.mpr h.respond
  · exact listsCodes_next.mpr (State.CodesListed.setPortState h)

theorem listsCodes_execCsrRd (c : Nat) : ListsCodes (execCsrRd c s) := by
  unfold execCsrRd
  split
  · exact listsCodes_next.mpr h.raise
  · exact listsCodes_next.mpr h.respond

theorem listsCodes_execAlloc (p : Pool) (r : Nat) : ListsCodes (execAlloc p r s) := by
  unfold execAlloc
  split
  · exact listsCodes_next.mpr h.raise
  split
  · exact listsCodes_next.mpr h.respond
  · next ht => exact listsCodes_next.mpr (h.poolAlloc? ht).respond

theorem listsCodes_execRelease (p : Pool) (i : Nat) : ListsCodes (execRelease p i s) := by
  unfold execRelease
  split
  · exact listsCodes_next.mpr h.raise
  · exact listsCodes_next.mpr h.updBuf.respond

theorem listsCodes_execBufAdd (p : Pool) (i : Nat) (v : Byte) : ListsCodes (execBufAdd p i v s) := by
  unfold execBufAdd
  split
  · exact listsCodes_next.mpr h.raise
  dsimp only
  split
  · exact listsCodes_next.mpr h.raise
  split
  · exact listsCodes_fault _
  · next ht => exact listsCodes_next.mpr (((h.bufWrite? ht).updBuf).respond)

theorem listsCodes_execBufPull (p : Pool) (i n : Nat) : ListsCodes (execBufPull p i n s) := by
  unfold execBufPull
  split
  · exact listsCodes_next.mpr h.raise
  split
  · exact listsCodes_next.mpr h.raise
  · exact listsCodes_next.mpr h.updBuf.respond

theorem listsCodes_execBufRd (p : Pool) (i o : Nat) : ListsCodes (execBufRd p i o s) := by
  unfold execBufRd
  split
  · exact listsCodes_next.mpr h.raise
  split
  · exact listsCodes_next.mpr h.raise
  split
  · exact listsCodes_fault _
  · exact listsCodes_next.mpr h.respond

theorem listsCodes_execBufInfo (p : Pool) (i : Nat) : ListsCodes (execBufInfo p i s) := by
  unfold execBufInfo
  split
  · exact listsCodes_next.mpr h.raise
  · exact listsCodes_next.mpr h.respond

theorem listsCodes_execBufHdr (p : Pool) (i : Nat) : ListsCodes (execBufHdr p i s) := by
  unfold execBufHdr
  split
  · exact listsCodes_next.mpr h.raise
  split
  · exact listsCodes_next.mpr h.raise
  · exact listsCodes_next.mpr h.respond

theorem listsCodes_deqComplete (i : BitVec 5) (q : List (BitVec 5)) : ListsCodes (deqComplete i q s) := by
  have hq : State.CodesListed { s with q := q } := h
  unfold deqComplete
  split
  · exact listsCodes_fault _
  · exact listsCodes_next.mpr hq.updBuf.setPortState.respond

theorem listsCodes_execDeq : ListsCodes (execDeq s) := by
  unfold execDeq
  split
  · exact listsCodes_next.mpr h.raise
  split
  · exact listsCodes_next.mpr h.setPortState
  · exact listsCodes_deqComplete h _ _

theorem codesListed_txFault {k : Nat} {c : Cause} : (txFault k c s).CodesListed := h.setPortState.raise

theorem codesListed_txHandoff {k i : Nat} : (txHandoff k i s).CodesListed := State.CodesListed.setPortState h

theorem listsCodes_txAccept (k i : Nat) : ListsCodes (txAccept k i s) := by
  unfold txAccept
  split
  · exact listsCodes_fault _
  split
  · exact listsCodes_next.mpr (codesListed_txFault h)
  split
  · exact listsCodes_next.mpr (codesListed_txFault h)
  split
  · exact listsCodes_fault _
  · next ht => exact listsCodes_next.mpr (codesListed_txHandoff (State.CodesListed.bufWrites? _ h.updBuf ht))

theorem listsCodes_execTx (p : Pool) (i : Nat) : ListsCodes (execTx p i s) := by
  unfold execTx
  split
  · exact listsCodes_next.mpr h.raise
  split
  · exact listsCodes_next.mpr h.raise
  split
  · exact listsCodes_next.mpr h.setPortState
  · exact listsCodes_txAccept h _ _

/-! ### The receiver, the framer, the ports and the collaborator -/

theorem codesListed_headerComplete {l : Half} {chan src : Byte} : (headerComplete l chan src s).CodesListed := by
  unfold headerComplete
  split
  · exact h
  split
  · unfold exhausted
    split <;> exact h
  · next t ht =>
    have hl : t.CodesListed := h.poolAlloc? ht
    split <;> exact hl

theorem codesListed_headerByte {b : Byte} : (headerByte b s).CodesListed := by
  unfold headerByte
  dsimp only
  split
  · exact codesListed_headerComplete (s := { s with hdrBuf := s.hdrBuf.put s.hdrCnt b, hdrCnt := 0#2 }) h
  · exact h

theorem listsCodes_payloadByte (v : Byte) : ListsCodes (payloadByte v s) := by
  unfold payloadByte
  dsimp only
  split
  · exact listsCodes_fault _
  split
  · exact listsCodes_fault _
  split
  · exact listsCodes_fault _
  · next t ht =>
    have hl : t.CodesListed := h.bufWrite? ht
    split <;> exact listsCodes_next.mpr hl

theorem listsCodes_discardByte : ListsCodes (discardByte s) := by
  unfold discardByte
  split
  · exact listsCodes_fault _
  dsimp only
  split <;> exact listsCodes_next.mpr h

theorem listsCodes_receiveByte (b : Byte) : ListsCodes (receiveByte b s) := by
  unfold receiveByte
  split
  · exact listsCodes_next.mpr (codesListed_headerByte h)
  · exact listsCodes_payloadByte h b
  · exact listsCodes_discardByte h

theorem listsCodes_execRxByte (d : Byte) : ListsCodes (execRxByte d s) := by
  unfold execRxByte
  split
  · split
    · exact listsCodes_next.mpr h
    · next v rest _ => exact listsCodes_receiveByte (s := { s with uartRx := rest }) h v
  · exact listsCodes_next.mpr h

theorem codesListed_txComplete : (txComplete s).CodesListed := h.updBuf.respond.setPortState

theorem listsCodes_framerStep (ready : Bool) : ListsCodes (framerStep ready s) := by
  unfold framerStep
  split
  · split
    · exact listsCodes_fault _
    split
    · exact listsCodes_fault _
    dsimp only
    split
    · exact listsCodes_next.mpr (codesListed_txComplete h)
    · exact listsCodes_next.mpr h
  · exact listsCodes_next.mpr h

theorem listsCodes_portStep (k : Nat) : ListsCodes (portStep k s) := by
  unfold portStep
  split
  · exact listsCodes_refused _
  split
  · split
    · exact listsCodes_next.mpr h
    · exact listsCodes_deqComplete h _ _
  · split
    · exact listsCodes_next.mpr h
    · exact listsCodes_txAccept h _ _
  all_goals exact listsCodes_next.mpr h

theorem codesListed_initDisabled {k : Nat} {x : Word} : (initDisabled k x s).CodesListed := by
  unfold initDisabled
  split
  · exact (State.CodesListed.setPortState h).respond
  · exact State.CodesListed.setPortState h

theorem codesListed_initEnabled {k : Nat} {x : Word} : (initEnabled k x s).CodesListed := by
  have hi := State.CodesListed.setPortState (s := { s with initPhase := .ready }) h (k := k) (x := .idle)
  unfold initEnabled
  dsimp only
  split <;> exact hi.respond

theorem listsCodes_collaboratorAnswer (x : Word) : ListsCodes (collaboratorAnswer x s) := by
  unfold collaboratorAnswer
  split
  · exact listsCodes_refused _
  split
  · exact listsCodes_next.mpr (codesListed_initDisabled h)
  · exact listsCodes_next.mpr (codesListed_initEnabled h)

theorem codesListed_uartArrive {b : Byte} : (uartArrive b s).CodesListed := by
  unfold uartArrive
  split <;> exact h

/-! ### Every instruction, every action, every step -/

/-- Every instruction keeps the codes listed (R106). -/
theorem listsCodes_exec (i : Instr) : ListsCodes (exec i s) := by
  cases i with
  | nop => exact listsCodes_next.mpr h.respond
  | alloc p r => exact listsCodes_execAlloc h p r
  | release p j => exact listsCodes_execRelease h p j
  | bufAdd p j b => exact listsCodes_execBufAdd h p j b
  | bufPull p j n => exact listsCodes_execBufPull h p j n
  | bufRd p j o => exact listsCodes_execBufRd h p j o
  | bufInfo p j => exact listsCodes_execBufInfo h p j
  | bufHdr p j => exact listsCodes_execBufHdr h p j
  | deq => exact listsCodes_execDeq h
  | tx p j => exact listsCodes_execTx h p j
  | init => exact listsCodes_execInit h
  | csrRd c => exact listsCodes_execCsrRd h c
  | rxByte d => exact listsCodes_execRxByte h d
  | spurious | txReady => exact listsCodes_next.mpr h

end Commands

/-- After reset every port's code is OK's (R59). -/
theorem State.codesListed_fresh (c : Config) : (State.fresh c).CodesListed := by
  rw [State.codesListed_iff]
  intro k x hx
  have hk : k < c.nCmdPorts := State.lt_of_port? hx
  obtain rfl : Port.reset = x := by simpa [State.port?, State.fresh, hk] using hx
  decide

/-- Every action keeps the codes listed, reset included. -/
theorem listsCodes_act {s : State} (h : s.CodesListed) (a : Action) : ListsCodes (act a s) := by
  cases a with
  | command k w =>
    intro t ht
    have hk : State.CodesListed { s with cmdPort := k } := h
    obtain ⟨x, -, -, ⟨i, -, hi⟩ | ⟨c, -, rfl⟩⟩ := act_command_next ht
    · exact listsCodes_exec hk i t hi
    · exact hk.raise
  | event w =>
    intro t ht
    obtain ⟨i, -, -, hi⟩ := act_event_next ht
    exact listsCodes_exec h i t hi
  | port k => exact listsCodes_portStep h k
  | framer ready => exact listsCodes_framerStep h ready
  | answer x => exact listsCodes_collaboratorAnswer h x
  | arrive b => exact listsCodes_next.mpr (codesListed_uartArrive h)
  | bind v => exact listsCodes_next.mpr h
  | reset => exact listsCodes_next.mpr (State.codesListed_fresh s.cfg)

/-- Every step keeps the codes listed. -/
theorem step_keeps_codesListed {s t : State} (h : s.CodesListed) (ht : step s = .next t) : t.CodesListed := by
  obtain ⟨-, rfl⟩ | ⟨a, rest, -, ha⟩ := step_next_cases ht
  · exact h
  · exact listsCodes_act (s := { s with schedule := rest }) h a t ha

/-- The port that is answered has the code and the value, and keeps its state. -/
theorem Responded.port?_eq {s t : State} {k : Nat} {code : BitVec 8} {v : Word} {x : Port}
    (h : Responded s t k code v) (hx : s.port? k = some x) :
    t.port? k = some { x with rspCode := code, rspValue := v } := by
  rw [h k, if_pos rfl, hx, Option.map_some]

/-- Settles O53: reset leaves the codes listed and every operation keeps them so; the numbers are those of what `respond` and
`raise` leave on the port. -/
theorem onlyListedCodesAreProduced : Obligations.OnlyListedCodesAreProduced := by
  refine ⟨fun s t h ht => step_keeps_codesListed h ht, State.codesListed_fresh, fun s k x v c hx => ?_,
    fun s k x c hx => ?_⟩
  · obtain ⟨-, -, -, hr⟩ := respond_frame s k c v
    exact ⟨_, Responded.port?_eq hr hx, rfl, rfl, by cases c <;> rfl⟩
  · obtain ⟨-, hr⟩ := raise_frame s k c
    exact ⟨_, Responded.port?_eq hr hx, rfl, rfl, by cases c <;> rfl⟩

end Sys2Proof.Machine
end

section
/-! PROOFS. The commands that CheckBuf guards (40_pool.md R139): a command whose check fails raises the check's fault on its port
and does nothing else. -/

namespace Sys2Proof.Machine

/-- An index of `N_p` or more names no buffer. -/
theorem State.buf?_eq_none_of_le {s : State} {p : Pool} {i : Nat} (h : s.poolN p ≤ i) : s.buf? p i = none :=
  if_neg (Nat.not_lt.mpr h)

/-- A guarded command whose check fails raises the check's cause in the state it was placed in (R139, R304). -/
theorem exec_of_checkBuf_error {s : State} {c : Instr} {p : Pool} {i : Nat} {onFree d : Cause}
    (hg : guardedBuffer? c = some (p, i, onFree)) (hd : checkBuf s p i onFree = .error d) :
    exec c s = .next (s.raise s.cmdPort d) := by
  cases c with
  | release => cases hg; simp only [exec, execRelease, hd]
  | bufAdd => cases hg; simp only [exec, execBufAdd, hd]
  | bufPull => cases hg; simp only [exec, execBufPull, hd]
  | bufRd => cases hg; simp only [exec, execBufRd, hd]
  | bufInfo => cases hg; simp only [exec, execBufInfo, hd]
  | bufHdr q =>
    cases q with
    | rx => cases hg; simp only [exec, execBufHdr, hd, ne_eq, not_true_eq_false, if_false]
    | tx => cases hg
  | nop | alloc | deq | tx | init | csrRd | spurious | rxByte | txReady => cases hg

/-- Settles O10: each case of the buffer is a case of CheckBuf's fault, which the command raises, and a raise leaves everything
but the port's response and the FAULT register. -/
theorem guardedCommandsFaultOnBuffersNotOwned : Obligations.GuardedCommandsFaultOnBuffersNotOwned := by
  intro s c p i onFree hg
  have faults {d : Cause} (hd : checkBuf s p i onFree = .error d) :
      ∃ t, exec c s = .next t ∧ Faulted s t s.cmdPort d :=
    ⟨_, exec_of_checkBuf_error hg hd, raise_frame s s.cmdPort d⟩
  refine ⟨fun hi => ?_, fun b hb => ⟨fun ho => ?_, fun ho => ?_⟩⟩
  · exact faults (checkBuf_error.mpr (.inl ⟨State.buf?_eq_none_of_le hi, rfl⟩))
  · exact faults (checkBuf_error.mpr (.inr (.inl ⟨b, hb, ho, rfl⟩)))
  · obtain ⟨hf, hc⟩ : b.owner ≠ .free ∧ b.owner ≠ .client := by rcases ho with ho | ho | ho <;> simp [ho]
    exact faults (checkBuf_error.mpr (.inr (.inr ⟨b, hb, hf, hc, rfl⟩)))

end Sys2Proof.Machine
end

section
/-! PROOFS. The frame receiver (41_receiver.md): what RX_BYTE does to an enabled receiver in each of its states, one equation for
each case of the rules, and what each case leaves alone; TX_READY and SPURIOUS, which leave everything. -/

namespace Sys2Proof.Machine

/-! ### Frames

A step's result is a state with new registers and one buffer updated; the frame lemmas are applied to the state with the new
registers, which the goal names. `by exact h` gives them a hypothesis about the state before: the registers do not enter it. -/

/-- A state agrees with itself. An update of registers is stated by it too: a frame reads no field but those it names. -/
theorem frame_refl (s : State) : SameRegisters s s ∧ SameTags s s ∧ SameBytes s s ∧ SamePorts s s :=
  ⟨⟨⟨⟨rfl, rfl, rfl, rfl, rfl, rfl⟩, rfl, ⟨rfl, rfl, rfl, rfl⟩, rfl, rfl, ⟨rfl, rfl, rfl⟩, rfl, rfl, rfl, rfl⟩, rfl, rfl⟩,
    fun _ _ => rfl, fun _ _ _ => rfl, fun _ => rfl⟩

/-- Changing the tags of one buffer that exists changes nothing else. -/
theorem updBuf_tags_frame {s : State} {p : Pool} {i : Nat} {b : Buffer} (hb : s.buf? p i = some b) (f : Buffer → Buffer)
    (hf : ∀ x, (f x).data = x.data) :
    SameRegisters s (s.updBuf p i f) ∧ OnlyTags s (s.updBuf p i f) p i (f b).tags ∧ SameBytes s (s.updBuf p i f) ∧
      SamePorts s (s.updBuf p i f) := by
  obtain ⟨hr, hp⟩ := frame_updBuf s p i f
  exact ⟨hr, updBuf_tags hb f, updBuf_sameBytes s p i f hf, hp⟩

/-- An update of one buffer that writes one byte of buffer space changes that byte, that buffer's tags, and nothing else. -/
theorem updBuf_write_frame {s : State} {p : Pool} {i j : Nat} {v : Byte} {b : Buffer} (hb : s.buf? p i = some b)
    (hw : b.data.wf) (hj : j < s.cap p) (f : Buffer → Buffer) (hf : ∀ x, (f x).data = x.data.write j v) :
    SameRegisters s (s.updBuf p i f) ∧ OnlyTags s (s.updBuf p i f) p i (f b).tags ∧ OnlyByte s (s.updBuf p i f) p i j v ∧
      SamePorts s (s.updBuf p i f) := by
  obtain ⟨hr, hp⟩ := frame_updBuf s p i f
  refine ⟨hr, updBuf_tags hb f, fun p' i' j' => ?_, hp⟩
  have hwrite : s.bufWrite? p i j v = some (s.updBuf p i (fun x => { x with data := x.data.write j v })) :=
    State.bufWrite?_eq_some.mpr ⟨⟨b, hb⟩, hj, rfl⟩
  rw [← State.bufRead?_bufWrite hwrite (by simpa [hb] using hw)]
  simp only [State.bufRead?, State.buf?_updBuf, State.cap_updBuf, State.unwritten_updBuf, hb, Option.map_some]
  by_cases e : p' = p ∧ i' = i
  · simp only [e, and_self, if_true, hf]
  · simp only [e, if_false]

/-! ### The byte taken -/

/-- An enabled receiver with a byte waiting takes the oldest one (R170). -/
theorem exec_rxByte_of_waiting {s : State} {v : Byte} {rest : List Byte} (he : s.rxEn = true) (hu : s.uartRx = v :: rest)
    (d : Byte) : exec (.rxByte d) s = receiveByte v { s with uartRx := rest } := by
  simp only [exec, execRxByte, he, hu, if_true]

/-- In AWAIT_HDR the byte taken is a header byte. -/
theorem exec_rxByte_awaitHdr {s : State} {v : Byte} {rest : List Byte} (he : s.rxEn = true) (hu : s.uartRx = v :: rest)
    (hst : s.rxState = .awaitHdr) (d : Byte) :
    exec (.rxByte d) s = .next (headerByte v { s with uartRx := rest }) := by
  simp only [exec_rxByte_of_waiting he hu, receiveByte, hst]

/-- In AWAIT_PAYLOAD the byte taken is a payload byte. -/
theorem exec_rxByte_awaitPayload {s : State} {v : Byte} {rest : List Byte} (he : s.rxEn = true)
    (hu : s.uartRx = v :: rest) (hst : s.rxState = .awaitPayload) (d : Byte) :
    exec (.rxByte d) s = payloadByte v { s with uartRx := rest } := by
  simp only [exec_rxByte_of_waiting he hu, receiveByte, hst]

/-- In DISCARD the byte taken is discarded. -/
theorem exec_rxByte_discard {s : State} {v : Byte} {rest : List Byte} (he : s.rxEn = true) (hu : s.uartRx = v :: rest)
    (hst : s.rxState = .discard) (d : Byte) : exec (.rxByte d) s = discardByte { s with uartRx := rest } := by
  simp only [exec_rxByte_of_waiting he hu, receiveByte, hst]

/-- A counter that is not 0 counts down by one. -/
theorem toNat_sub_one {n : Half} (h : 1 ≤ n.toNat) : (n - 1#16).toNat + 1 = n.toNat := by bv_omega

/-! ### Header bytes -/

/-- `hdr_buf[j] <- b` on the header's list of bytes (R24). -/
theorem HdrBuf.bytes_put (h : HdrBuf) (j : BitVec 2) (v : Byte) : (h.put j v).bytes = h.bytes.set j.toNat v := by
  have hj : j = 0#2 ∨ j = 1#2 ∨ j = 2#2 ∨ j = 3#2 := by revert j; decide
  obtain rfl | rfl | rfl | rfl := hj <;> rfl

/-- A header byte that is not the fourth is put in its place and counted (R172). -/
theorem headerByte_of_lt {s : State} (h : s.hdrCnt.toNat < 3) (v : Byte) :
    headerByte v s = { s with hdrBuf := s.hdrBuf.put s.hdrCnt v, hdrCnt := s.hdrCnt + 1#2 } := by
  have hc : s.hdrCnt ≠ 3#2 := fun e => by rw [e] at h; exact absurd h (by decide)
  simp only [headerByte, hc, if_false]

/-- Settles O25: the header byte is put in the place that the count names, and the count does not wrap. -/
theorem headerByteIsAccumulated : Obligations.HeaderByteIsAccumulated := by
  intro s v rest he hu hst hc
  have hn : (s.hdrCnt + 1#2).toNat = s.hdrCnt.toNat + 1 := by bv_omega
  have hexec := exec_rxByte_awaitHdr he hu hst v
  rw [headerByte_of_lt (s := { s with uartRx := rest }) hc] at hexec
  exact ⟨_, _, hexec, hn, HdrBuf.bytes_put .., frame_refl _⟩

/-- The state in which the header is complete (R173): the byte is taken and stored, and the count is 0. -/
def State.headerStored (s : State) (v : Byte) (rest : List Byte) : State :=
  { s with uartRx := rest, hdrCnt := 0#2, hdrBuf := { s.hdrBuf with b3 := v } }

/-- The fourth header byte completes the header (R173), whose length is that of its first two bytes. -/
theorem exec_rxByte_fourth {s : State} {v : Byte} {rest : List Byte} {l : Half} (he : s.rxEn = true)
    (hu : s.uartRx = v :: rest) (hst : s.rxState = .awaitHdr) (hc : s.hdrCnt = 3#2)
    (hl : l.toNat = s.hdrBuf.b0.toNat + 256 * s.hdrBuf.b1.toNat) :
    exec (.rxByte v) s = .next (headerComplete l s.hdrBuf.b2 v (s.headerStored v rest)) := by
  have e : le16 s.hdrBuf.b0 s.hdrBuf.b1 = l := BitVec.eq_of_toNat_eq ((le16_toNat ..).trans hl.symm)
  subst e
  rw [exec_rxByte_awaitHdr he hu hst, headerByte_last (s := { s with uartRx := rest }) hc]
  rfl

/-! ### A frame that is dropped -/

/-- A length above the capacity is OVERSIZED, without an allocation (R174). -/
theorem headerComplete_oversized {s : State} {l : Half} (h : s.cfg.rxBufCap < l.toNat) (chan src : Byte) :
    headerComplete l chan src s = oversized l s := if_pos h

/-- A length within the capacity with no buffer free is EXHAUSTED (R174). -/
theorem headerComplete_exhausted {s : State} {l : Half} (h : l.toNat ≤ s.cfg.rxBufCap)
    (hn : ∀ i < s.cfg.rxPoolN, s.isFree .rx i = false) (chan src : Byte) :
    headerComplete l chan src s = exhausted l s := by
  simp only [headerComplete, Nat.not_lt.mpr h, if_false, State.poolAlloc?_exhausted (p := .rx) hn]

/-- `Exhausted(L)` (R179): the diagnostic record, and the receiver's next state by the length. -/
theorem exhausted_eq (l : Half) (s : State) :
    exhausted l s = { s with
      rxState := if l.toNat = 0 then .awaitHdr else .discard
      rxRemaining := if l.toNat = 0 then s.rxRemaining else l
      diagLog := s.diagLog ++ [⟨1#8, l⟩] } := by
  by_cases h : l = 0#16
  · subst h
    rfl
  · have hn : l.toNat ≠ 0 := fun e => h (BitVec.eq_of_toNat_eq e)
    simp only [exhausted, h, hn, if_false]
    rfl

/-- Settles O26: the header is complete, and each reason of a drop changes registers only. -/
theorem headerOfADroppedFrame : Obligations.HeaderOfADroppedFrame := by
  intro s v rest l he hu hst hc hl
  have hexec := exec_rxByte_fourth he hu hst hc hl
  refine ⟨fun hbig => ?_, fun hfit hnone => ?_⟩
  · rw [headerComplete_oversized (s := s.headerStored v rest) hbig] at hexec
    exact ⟨_, hexec, frame_refl (oversized l (s.headerStored v rest))⟩
  · rw [headerComplete_exhausted (s := s.headerStored v rest) hfit hnone, exhausted_eq] at hexec
    exact ⟨_, hexec, frame_refl _⟩

/-! ### A frame that is stored -/

/-- What the header leaves of the buffer it takes (R130, R175, R176): the owner, an empty region at 0, channel and source. -/
def Buffer.addressed (o : Owner) (chan src : Byte) (b : Buffer) : Buffer :=
  { b.allocated 0 o with chan := chan, src := src }

/-- A length of 0 takes the lowest free buffer and enqueues it at once (R176). -/
theorem headerComplete_zero {s : State} {i : Nat} {b : Buffer} (hst : s.rxState = .awaitHdr)
    (hb : s.buf? .rx i = some b) (hf : b.owner = .free) (hlow : ∀ j < i, s.isFree .rx j = false) (chan src : Byte) :
    headerComplete 0#16 chan src s =
      State.updBuf { s with q := s.q ++ [BitVec.ofNat 5 i] } .rx i (Buffer.addressed .queue chan src) := by
  have hcap : ¬s.cfg.rxBufCap < (0#16).toNat := Nat.not_lt.mpr (Nat.zero_le _)
  simp only [headerComplete, hcap, if_false, if_true, State.poolAlloc?_of_lowest hb hf hlow, zeroFrame, latchHeader,
    State.updBuf_updBuf]
  rw [← hst]
  rfl

/-- Any other length within the capacity takes the lowest free buffer and starts its payload (R175). -/
theorem headerComplete_payload {s : State} {l : Half} {i : Nat} {b : Buffer} (hcap : l.toNat ≤ s.cfg.rxBufCap)
    (hl : l ≠ 0#16) (hb : s.buf? .rx i = some b) (hf : b.owner = .free) (hlow : ∀ j < i, s.isFree .rx j = false)
    (chan src : Byte) :
    headerComplete l chan src s =
      State.updBuf { s with rxBufIdx := BitVec.ofNat 5 i, rxRemaining := l, rxState := .awaitPayload } .rx i
        (Buffer.addressed .receiver chan src) := by
  simp only [headerComplete, Nat.not_lt.mpr hcap, hl, if_false, State.poolAlloc?_of_lowest hb hf hlow, startPayload,
    latchHeader, State.updBuf_updBuf]
  rfl

/-- Settles O27: the header is complete, and each length's case changes registers and the tags of the one buffer. -/
theorem headerOfAStoredFrame : Obligations.HeaderOfAStoredFrame := by
  intro s v rest l i b hs he hu hst hc hl hcap hb hf hlow
  have hexec := exec_rxByte_fourth he hu hst hc hl
  have hi : (BitVec.ofNat 5 i).toNat = i := by
    have := State.lt_of_buf? hb
    have := hs.poolN_le .rx
    exact Nat.mod_eq_of_lt (by omega)
  refine ⟨fun h0 => ?_, fun h1 => ?_⟩
  · obtain rfl : l = 0#16 := BitVec.eq_of_toNat_eq h0
    rw [headerComplete_zero (s := s.headerStored v rest) hst hb hf hlow] at hexec
    exact ⟨_, _, hexec, hi, updBuf_tags_frame (b := b) (by exact hb) _ (fun _ => rfl)⟩
  · have hne : l ≠ 0#16 := fun e => by simp [e] at h1
    rw [headerComplete_payload (s := s.headerStored v rest) hcap hne hb hf hlow] at hexec
    exact ⟨_, _, hexec, hi, updBuf_tags_frame (b := b) (by exact hb) _ (fun _ => rfl)⟩

/-! ### Payload bytes -/

/-- What a payload byte leaves of its buffer (R178): the byte at its offset, and one more in len. -/
def Buffer.stored (j : Nat) (v : Byte) (b : Buffer) : Buffer := { b with data := b.data.write j v, len := b.len + 1#16 }

/-- A payload byte with room at the tail is stored there, and the one that leaves nothing remaining ends the payload (R178). -/
theorem payloadByte_of_room {s : State} {b : Buffer} (hb : s.buf? .rx s.rxBufIdx.toNat = some b)
    (hr : 1 ≤ s.rxRemaining.toNat) (hj : b.head.toNat + b.len.toNat < s.cfg.rxBufCap) (v : Byte) :
    payloadByte v s =
      let u := State.updBuf { s with rxRemaining := s.rxRemaining - 1#16 } .rx s.rxBufIdx.toNat
        (Buffer.stored (b.head.toNat + b.len.toNat) v)
      if s.rxRemaining - 1#16 = 0#16 then .next (payloadDone s.rxBufIdx.toNat u) else .next u := by
  have hr : s.rxRemaining ≠ 0#16 := fun e => by simp [e] at hr
  have hw := (State.bufWrite?_eq_some (p := .rx) (v := v)).mpr ⟨⟨b, hb⟩, hj, rfl⟩
  simp only [payloadByte, hb, hr, hw, if_false, State.updBuf_updBuf]
  rfl

/-- The handoff after the buffer's last update (R178): one update of the buffer, and the receiver's registers. -/
theorem payloadDone_updBuf (s : State) (x : BitVec 5) (f : Buffer → Buffer) :
    payloadDone x.toNat (s.updBuf .rx x.toNat f) =
      State.updBuf { s with rxBufIdx := 0#5, rxState := .awaitHdr, q := s.q ++ [x] } .rx x.toNat
        (fun b => { f b with owner := .queue }) := by
  rw [← State.updBuf_updBuf _ _ _ f (fun b => { b with owner := .queue })]
  simp only [payloadDone, State.qPush, BitVec.ofNat_toNat, BitVec.setWidth_eq]
  rfl

/-- Settles O28: the byte is stored at the tail, which changes one byte and one buffer's tags; the last byte's handoff adds the
owner to them. -/
theorem payloadByteIsStoredAtTheTail : Obligations.PayloadByteIsStoredAtTheTail := by
  intro s v rest b hs he hu hst hb hw hj
  have hl : (b.len + 1#16).toNat = b.len.toNat + 1 := by
    have : s.cfg.rxBufCap ≤ 65535 := hs.cap_le .rx
    bv_omega
  have hexec (hr : 1 ≤ s.rxRemaining.toNat) := (exec_rxByte_awaitPayload he hu hst v).trans
    (payloadByte_of_room (s := { s with uartRx := rest }) hb hr hj v)
  refine ⟨fun hr => ?_, fun hr => ?_⟩
  · have hn := toNat_sub_one (n := s.rxRemaining) (by omega)
    have hne : s.rxRemaining - 1#16 ≠ 0#16 := by bv_omega
    exact ⟨_, _, _, (hexec (by omega)).trans (if_neg hne), hl, hn,
      updBuf_write_frame (b := b) (by exact hb) hw (by exact hj) _ (fun _ => rfl)⟩
  · have h0 : s.rxRemaining - 1#16 = 0#16 := by bv_omega
    have hlast := (hexec (by omega)).trans (if_pos h0)
    simp only [payloadDone_updBuf, h0] at hlast
    exact ⟨_, _, hlast, hl,
      updBuf_write_frame (b := b) (by exact hb) hw (by exact hj) _ (fun _ => rfl)⟩

/-! ### Discarded bytes -/

/-- A discarded byte counts down, and the last one returns the receiver to AWAIT_HDR (R180). -/
theorem discardByte_of_pos {s : State} (h : 1 ≤ s.rxRemaining.toNat) :
    discardByte s = .next { s with
      rxRemaining := s.rxRemaining - 1#16
      rxState := if (s.rxRemaining - 1#16).toNat = 0 then .awaitHdr else s.rxState } := by
  have hr : s.rxRemaining ≠ 0#16 := fun e => by simp [e] at h
  have hz : s.rxRemaining - 1#16 = 0#16 ↔ (s.rxRemaining - 1#16).toNat = 0 := by bv_omega
  simp only [discardByte, hr, if_false, hz]
  split <;> rfl

/-- Settles O29: the byte is taken and counted, and no buffer is touched. -/
theorem discardedByteIsOnlyCounted : Obligations.DiscardedByteIsOnlyCounted := by
  intro s v rest he hu hst hr
  have hexec := exec_rxByte_discard he hu hst v
  rw [discardByte_of_pos (s := { s with uartRx := rest }) hr] at hexec
  simp only [hst] at hexec
  exact ⟨_, _, hexec, toNat_sub_one hr, frame_refl _⟩

/-! ### Ignored events -/

/-- A delivered event word performs the event it decodes to (R112). -/
theorem act_event_of_decode {w : EventWord} {i : Instr} (h : decodeEvent w = .ok i) (s : State) :
    act (.event w) s = exec i s := by
  simp only [step, fetch, fetchEvent, decode_event, h]

/-- Settles O32: both words decode to their events, and each event's meaning is the state as it is. -/
theorem ignoredEventsChangeNothing : Obligations.IgnoredEventsChangeNothing :=
  fun s => ⟨rfl, rfl, act_event_of_decode (i := .txReady) rfl s, act_event_of_decode (i := .spurious) rfl s⟩

end Sys2Proof.Machine
end

section
/-! PROOFS. The acceptance of a TX (42_transmit.md R210 part 2, R211): both routes to TxAccept, and TxAccept's outcome for each
case of the buffer. -/

namespace Sys2Proof.Machine

/-- A TX of a transmit buffer, placed with the framer idle, is accepted in the same step (R210). -/
theorem exec_tx_of_framer_idle {s : State} {i : Nat} (hi : i < s.cfg.txPoolN) (hidle : s.txBusy = false) :
    exec (.tx .tx i) s = txAccept s.cmdPort i s := by
  simp [exec, execTx, hidle, Nat.not_le.mpr hi]

/-- A held TX is accepted in its port's step once the framer is idle (R210, R214). -/
theorem portStep_holdTx_of_framer_idle {s : State} {k i : Nat} {x : Port} (hx : s.port? k = some x)
    (hhold : x.state = .holdTx i) (hidle : s.txBusy = false) : portStep k s = txAccept k i s := by
  simp [portStep, hx, hhold, hidle]

/-- TxAccept of a buffer that no client owns faults NOT_OWNED (R211). -/
theorem txAccept_notOwned {s : State} {i : Nat} {b : Buffer} (hb : s.buf? .tx i = some b) (ho : b.owner ≠ .client)
    (k : Nat) : txAccept k i s = .next (txFault k .notOwned s) := by
  simp [txAccept, hb, ho]

/-- TxAccept of a CLIENT-owned buffer with no room for the header faults NO_HEADROOM (R211). -/
theorem txAccept_noHeadroom {s : State} {i : Nat} {b : Buffer} (hb : s.buf? .tx i = some b) (ho : b.owner = .client)
    (hh : b.head.toNat < 4) (k : Nat) : txAccept k i s = .next (txFault k .noHeadroom s) := by
  simp [txAccept, hb, ho, hh]

/-- Settles O21: both routes end in TxAccept, whose two faults leave what a fault leaves and whose success is the handoff with
the header written; the cursors, the index and the port of a shaped state fit their registers. -/
theorem txAcceptedOnBothRoutes : Obligations.TxAcceptedOnBothRoutes := by
  intro s k i b o hs hidle hb hroute
  have hi : i < s.poolN .tx := State.lt_of_buf? hb
  obtain ⟨rfl, hk⟩ : o = txAccept k i s ∧ k < s.cfg.nCmdPorts := by
    obtain ⟨rfl, rfl, hk⟩ | ⟨rfl, x, hx, hhold⟩ := hroute
    · exact ⟨exec_tx_of_framer_idle hi hidle, hk⟩
    · exact ⟨portStep_holdTx_of_framer_idle hx hhold hidle, State.lt_of_port? hx⟩
  refine ⟨fun ho => ?_, fun ho hh => ?_, fun ho hh hc hw => ?_⟩
  · exact ⟨_, txAccept_notOwned hb ho k, txFault_frame s k .notOwned⟩
  · exact ⟨_, txAccept_noHeadroom hb ho hh k, txFault_frame s k .noHeadroom⟩
  · have hcap := hs.cap_le .tx
    have hpool := hs.poolN_le .tx
    have hports : s.cfg.nCmdPorts ≤ 255 := by
      obtain ⟨⟨-, -, -, -, ⟨-, hports⟩, -⟩, -⟩ := hs
      exact hports
    have hhead : (b.head - 4#16).toNat = b.head.toNat - 4 := by bv_omega
    have hlen : (b.len + 4#16).toNat = b.len.toNat + 4 := by bv_omega
    have hidx : (BitVec.ofNat 5 i).toNat = i := Nat.mod_eq_of_lt (by omega)
    have hport : (BitVec.ofNat 8 k).toNat = k := Nat.mod_eq_of_lt (by omega)
    obtain ⟨t, ht, hregs, htags, honly, hbytes⟩ := txAccept_next (k := k) hs hb ho hh hc hw
    rw [← hhead] at hbytes
    exact ⟨t, _, _, _, _, ht, hhead, hlen, hidx, hport, hregs, htags, honly, hbytes⟩

end Sys2Proof.Machine
end

section
/-! PROOFS. The answers to INIT's calls (44_control.md R263, R264): the port that an answer is for, and each answer's outcome as new
registers with one port updated. -/

namespace Sys2Proof.Machine

/-- Two updates of one port are one. -/
theorem State.updPort_updPort (s : State) (k : Nat) (f g : Port → Port) :
    (s.updPort k f).updPort k g = s.updPort k (fun x => g (f x)) :=
  congrArg (fun ports => { s with ports }) (List.modify_modify_eq f g k s.ports)

/-! ### The port an answer is for -/

/-- An answer is for the one port that waits, and which of INIT's later parts it starts is that port's state (R262). -/
theorem act_answer_of_awaits {s : State} (h : s.InitAgrees) {k : Nat} {x : Port} (hp : s.port? k = some x)
    (hx : x.state.awaitsCollaborator = true) (y : Word) :
    act (.answer y) s = if x.state = .initDisable then .next (initDisabled k y s) else .next (initEnabled k y s) := by
  simp [act_answer, collaboratorAnswer, State.calling?_eq h hp hx, State.portIn, hp]

/-! ### What each answer leaves -/

/-- A failed `disable()` takes INIT back to its start, with the status on the port (R263). -/
theorem initDisabled_of_ne {y : Word} (hy : y ≠ 0#32) (k : Nat) (s : State) :
    initDisabled k y s = State.updPort { s with initPhase := .uninit } k
      (fun _ => { state := .idle, rspCode := 0x02#8, rspValue := y }) :=
  (if_pos hy).trans (State.updPort_updPort ..)

/-- A successful `disable()` drains the UART, enables the receiver and calls `enable()` (R263). -/
theorem initDisabled_zero (k : Nat) (s : State) :
    initDisabled k 0#32 s = State.updPort { s with uartRx := [], rxEn := true, initPhase := .enabling } k
      (fun x => { x with state := .initEnable }) := rfl

/-- `enable()`, whatever its status, ends INIT with the status on the port (R264). -/
theorem initEnabled_eq (k : Nat) (y : Word) (s : State) :
    initEnabled k y s = State.updPort { s with initPhase := .ready } k
      (fun _ => { state := .idle, rspCode := if y = 0#32 then 0x00#8 else 0x02#8, rspValue := y }) := by
  unfold initEnabled
  by_cases hy : y = 0#32
  · subst hy
    exact State.updPort_updPort ..
  · simp only [if_neg hy]
    exact State.updPort_updPort ..

/-- Settles O37: the answer is for the port in INIT_DISABLE, and either status changes registers and that port. -/
theorem initAnswerToDisable : Obligations.InitAnswerToDisable := by
  intro s k x y h hp hx
  have hact : act (.answer y) s = .next (initDisabled k y s) :=
    (act_answer_of_awaits h hp (by rw [hx]; rfl) y).trans (if_pos hx)
  refine ⟨fun hy => ?_, fun hy => ?_⟩
  · rw [initDisabled_of_ne hy] at hact
    exact ⟨_, hact, frame_updPort ..⟩
  · subst hy
    rw [initDisabled_zero] at hact
    exact ⟨_, hact, frame_updPort ..⟩

/-- Settles O38: the answer is for the port in INIT_ENABLE, and any status changes the phase and that port. -/
theorem initAnswerToEnable : Obligations.InitAnswerToEnable := by
  intro s k x y h hp hx
  have hact : act (.answer y) s = .next (initEnabled k y s) :=
    (act_answer_of_awaits h hp (by rw [hx]; rfl) y).trans (if_neg (by simp [hx]))
  rw [initEnabled_eq] at hact
  exact ⟨_, hact, frame_updPort ..⟩

end Sys2Proof.Machine
end

section
/-! PROOFS. Reset and the environment (70_reset_and_hazards.md R340, R361): the buffers and the ports that reset leaves, and the
byte that arrives at the UART. -/

namespace Sys2Proof.Machine

/-! ### What reset leaves -/

/-- Reset makes every buffer of every pool a reset one, whatever the buffers before (R59). -/
theorem buf?_blockReset {s : State} {p : Pool} {i : Nat} (hi : i < s.poolN p) :
    (blockReset s).buf? p i = some Buffer.reset := by
  refine (if_pos hi).trans ?_
  cases p <;> exact List.getElem?_replicate_of_lt hi

/-- Reset makes every port a reset one, whatever the ports before (R59). -/
theorem port?_blockReset {s : State} {k : Nat} (hk : k < s.cfg.nCmdPorts) :
    (blockReset s).port? k = some Port.reset :=
  (if_pos hk).trans (List.getElem?_replicate_of_lt hk)

/-- After reset a byte of buffer space reads as the byte drawn for it (R59, R62). -/
theorem bufRead?_blockReset {s : State} {p : Pool} {i j : Nat} (hi : i < s.poolN p) (hj : j < s.cap p) :
    (blockReset s).bufRead? p i j = some ((blockReset s).unwritten p i j) :=
  State.bufRead?_eq_some.mpr ⟨Buffer.reset, buf?_blockReset hi, hj, rfl⟩

/-- Settles O44: the registers are those of a fresh block, and every buffer and every port is a reset one. -/
theorem resetSetsEveryBlockField : Obligations.ResetSetsEveryBlockField := by
  intro s
  have hbufs : ∀ p i, i < s.poolN p →
      ((blockReset s).buf? p i).map Buffer.tags = some (.free, 0#16, 0#16, 0#8, 0#8) ∧
      ∀ j < s.cap p, ∃ v, (blockReset s).bufRead? p i j = some v :=
    fun p i hi => ⟨by rw [buf?_blockReset hi]; rfl, fun j hj => ⟨_, bufRead?_blockReset hi hj⟩⟩
  exact ⟨blockReset s, act_reset s, rfl, rfl, rfl, rfl, rfl, rfl, rfl, rfl, rfl, rfl, rfl, rfl, rfl, rfl, rfl, rfl, rfl, rfl,
    hbufs, fun _ hk => port?_blockReset hk⟩

/-! ### A byte arrives -/

/-- The receive FIFO is full where it has a depth and holds that many bytes (R361). -/
theorem State.uartRxFull_iff (s : State) :
    s.uartRxFull = true ↔ ∃ d, s.cfg.uartRxFifoDepth = some d ∧ d ≤ s.uartRx.length := by
  unfold State.uartRxFull
  cases s.cfg.uartRxFifoDepth with
  | none => simp
  | some d => simp

/-- A full receive FIFO loses the byte (R361). -/
theorem uartArrive_of_full {s : State} (h : s.uartRxFull = true) (v : Byte) : uartArrive v s = s := if_pos h

/-- A receive FIFO with room takes the byte at its tail (R361). -/
theorem uartArrive_of_not_full {s : State} (h : ¬ s.uartRxFull = true) (v : Byte) :
    uartArrive v s = { s with uartRx := s.uartRx ++ [v] } := if_neg h

/-- Settles O45: a depth reached makes the FIFO full, and a FIFO below every depth it has is not full. -/
theorem arrivingByteIsAppendedOrLost : Obligations.ArrivingByteIsAppendedOrLost := by
  intro s v
  rw [act_arrive]
  constructor
  · intro d hd hle
    have hfull : s.uartRxFull = true := s.uartRxFull_iff.mpr ⟨d, hd, hle⟩
    rw [uartArrive_of_full hfull]
  · intro hroom
    have hfull : ¬ s.uartRxFull = true := by
      rw [s.uartRxFull_iff]
      rintro ⟨d, hd, hle⟩
      exact absurd (hroom d hd) (Nat.not_lt.mpr hle)
    rw [uartArrive_of_not_full hfull]

end Sys2Proof.Machine
end

section
/-! PROOFS. The decoder and the encoder (30_encoding.md §2, §4): a word is its fields, so each decodes or encodes to the other; the
reserved-field checks are the opcode table's masks; events by KIND and DATA. -/

namespace Sys2Proof

open Machine

/-! ### A word from its fields -/

theorem idxFits_idxOf (w : Word) : idxFits (idxOf w) = true :=
  decide_eq_true (w.extractLsb 22 16).isLt

theorem immFits_immOf (w : Word) : immFits (immOf w) = true :=
  decide_eq_true (w.extractLsb 15 0).isLt

/-- The bit P of the pool that a word selects. -/
theorem toNat_bit_poolOf (w : Word) : (poolOf w).bit.toNat = w.toNat / 2 ^ 23 % 2 := by
  have hf := toNat_field 23 23 w
  have hz : w.extractLsb 23 23 = 0#1 ↔ (w.extractLsb 23 23).toNat = 0 :=
    ⟨fun h => by rw [h]; rfl, fun h => BitVec.eq_of_toNat_eq h⟩
  unfold poolOf
  split
  · next h => exact (hz.mp h).symm.trans hf
  · next h =>
    rw [hz] at h
    change 1 = _
    omega

/-- A command word is the word of its four fields (R100): no bit of it lies outside them. -/
theorem commandWord_fields (w : Word) : commandWord (opcOf w) (poolOf w) (idxOf w) (BitVec.ofNat 16 (immOf w)) = w := by
  apply BitVec.eq_of_toNat_eq
  have hw := w.isLt
  simp only [toNat_commandWord, toNat_bit_poolOf, opcOf, idxOf, immOf, toNat_field, BitVec.toNat_ofNat]
  omega

/-- An event word is the word of its two fields (R112). -/
theorem eventWord_fields (w : EventWord) : eventWord (kindOf w) (dataOf w) = w := by
  apply BitVec.eq_of_toNat_eq
  have hw := w.isLt
  simp only [eventWord, toNat_append_eq, kindOf, dataOf, toNat_field]
  omega

/-- IMM with its high byte zero is its low byte (R102, BUF_ADD). -/
theorem immLow_of_immHigh {w : Word} (h : immHigh w = 0#8) : BitVec.ofNat 16 (immOf w) = 0#8 ++ immLow w := by
  have hz : (immHigh w).toNat = 0 := by rw [h]; rfl
  apply BitVec.eq_of_toNat_eq
  simp only [immHigh, toNat_field] at hz
  simp only [toNat_append_eq, immOf, immLow, toNat_field, BitVec.toNat_ofNat]
  omega

/-! ### Decoding is the inverse of encoding -/

theorem ite_eq_cases {α : Type} {c : Prop} [Decidable c] {a b x : α} (h : (if c then a else b) = x) :
    c ∧ a = x ∨ ¬c ∧ b = x := by
  split at h
  · next hc => exact .inl ⟨hc, h⟩
  · next hc => exact .inr ⟨hc, h⟩

theorem reserved_eq_ok {b : Bool} {i j : Instr} : reserved b i = .ok j ↔ b = true ∧ i = j := by
  cases b <;> simp [reserved]

/-- What a reserved-field check passes on is well-formed and encoded as `x`, where the zero fields make its instruction so. -/
theorem reserved_encodes {b : Bool} {i j : Instr} {x : Wire} (h : reserved b i = .ok j)
    (hi : b = true → i.wf = true ∧ encode i = x) : j.wf = true ∧ encode j = x := by
  obtain ⟨hb, rfl⟩ := reserved_eq_ok.mp h
  exact hi hb

/-- A command word that decodes is the encoding of its instruction, which is well-formed: each row of the opcode map (R102) has its
opcode, the fields marked 0 are zero (R103), and the other fields are the operands. -/
theorem decodeCommand_ok {w : Word} {i : Instr} (h : decodeCommand w = .ok i) :
    i.wf = true ∧ encode i = .command w := by
  have hw := congrArg Wire.command (commandWord_fields w)
  have hidx := idxFits_idxOf w
  have himm := immFits_immOf w
  have hlow := immLow_of_immHigh (w := w)
  unfold decodeCommand at h
  generalize opcOf w = opc, poolOf w = p, idxOf w = x, immOf w = n at h hw hidx himm hlow
  have hall (hz : (p = .rx && x = 0 && n = 0) = true) : Wire.command (commandWord opc .rx 0 0#16) = .command w := by
    obtain ⟨⟨rfl, rfl⟩, rfl⟩ : (p = .rx ∧ x = 0) ∧ n = 0 := by simpa using hz
    exact hw
  have hx (hz : decide (x = 0) = true) : Wire.command (commandWord opc p 0 (BitVec.ofNat 16 n)) = .command w := by
    obtain rfl : x = 0 := by simpa using hz
    exact hw
  have hn (hz : decide (n = 0) = true) : Wire.command (commandWord opc p x 0#16) = .command w := by
    obtain rfl : n = 0 := by simpa using hz
    exact hw
  dsimp only at h
  obtain ⟨rfl, h⟩ | ⟨-, h⟩ := ite_eq_cases h
  · exact reserved_encodes h fun hz => ⟨rfl, hall hz⟩
  obtain ⟨rfl, h⟩ | ⟨-, h⟩ := ite_eq_cases h
  · exact reserved_encodes h fun hz => ⟨himm, hx hz⟩
  obtain ⟨rfl, h⟩ | ⟨-, h⟩ := ite_eq_cases h
  · exact reserved_encodes h fun hz => ⟨hidx, hn hz⟩
  obtain ⟨rfl, h⟩ | ⟨-, h⟩ := ite_eq_cases h
  · exact reserved_encodes h fun hz => ⟨hidx, by rw [hlow (by simpa using hz)] at hw; exact hw⟩
  obtain ⟨rfl, h⟩ | ⟨-, h⟩ := ite_eq_cases h
  · obtain rfl := Except.ok.inj h
    exact ⟨Bool.and_eq_true_iff.mpr ⟨hidx, himm⟩, hw⟩
  obtain ⟨rfl, h⟩ | ⟨-, h⟩ := ite_eq_cases h
  · obtain rfl := Except.ok.inj h
    exact ⟨Bool.and_eq_true_iff.mpr ⟨hidx, himm⟩, hw⟩
  obtain ⟨rfl, h⟩ | ⟨-, h⟩ := ite_eq_cases h
  · exact reserved_encodes h fun hz => ⟨hidx, hn hz⟩
  obtain ⟨rfl, h⟩ | ⟨-, h⟩ := ite_eq_cases h
  · exact reserved_encodes h fun hz => ⟨hidx, hn hz⟩
  obtain ⟨rfl, h⟩ | ⟨-, h⟩ := ite_eq_cases h
  · exact reserved_encodes h fun hz => ⟨rfl, hall hz⟩
  obtain ⟨rfl, h⟩ | ⟨-, h⟩ := ite_eq_cases h
  · exact reserved_encodes h fun hz => ⟨hidx, hn hz⟩
  obtain ⟨rfl, h⟩ | ⟨-, h⟩ := ite_eq_cases h
  · exact reserved_encodes h fun hz => ⟨rfl, hall hz⟩
  obtain ⟨rfl, h⟩ | ⟨-, h⟩ := ite_eq_cases h
  · refine reserved_encodes h fun hz => ⟨himm, ?_⟩
    obtain ⟨hp, hz⟩ := Bool.and_eq_true_iff.mp hz
    obtain rfl : p = .rx := of_decide_eq_true hp
    exact hx hz
  · cases h

/-- An event word that decodes is the encoding of its event (R112). -/
theorem decodeEvent_ok {w : EventWord} {i : Instr} (h : decodeEvent w = .ok i) : i.wf = true ∧ encode i = .event w := by
  have hw := congrArg Wire.event (eventWord_fields w)
  unfold decodeEvent at h
  obtain ⟨hk, h⟩ | ⟨-, h⟩ := ite_eq_cases h
  · obtain rfl := Except.ok.inj h
    exact ⟨rfl, by rw [hk] at hw; exact hw⟩
  obtain ⟨-, h⟩ | ⟨hd, h⟩ := ite_eq_cases h
  · cases h
  rw [Decidable.not_not.mp hd] at hw
  obtain ⟨hk, h⟩ | ⟨-, h⟩ := ite_eq_cases h
  · obtain rfl := Except.ok.inj h
    exact ⟨rfl, by rw [hk] at hw; exact hw⟩
  obtain ⟨hk, h⟩ | ⟨-, h⟩ := ite_eq_cases h
  · obtain rfl := Except.ok.inj h
    exact ⟨rfl, by rw [hk] at hw; exact hw⟩
  · cases h

/-- Settles O2: a word is the word of its fields, and each row's zero fields are zero. -/
theorem everyDecodedWordIsItsEncoding : Obligations.EveryDecodedWordIsItsEncoding := by
  intro x i h
  cases x with
  | command w => exact decodeCommand_ok h
  | event w => exact decodeEvent_ok h

theorem idxOf_commandWord_zero (o : BitVec 8) (p : Pool) (n : Half) : idxOf (commandWord o p 0 n) = 0 :=
  idxOf_commandWord o p n rfl

theorem immOf_commandWord_ofNat (o : BitVec 8) (p : Pool) (i : Nat) {n : Nat} (h : immFits n = true) :
    immOf (commandWord o p i (BitVec.ofNat 16 n)) = n := by
  have hn : n < 65536 := of_decide_eq_true h
  rw [immOf_commandWord]
  exact Nat.mod_eq_of_lt hn

/-- Settles O1: each field of the encoded word reads back, and the fields marked 0 pass the reserved check. -/
theorem decodeOfEncodeIsTheInstruction : Obligations.DecodeOfEncodeIsTheInstruction := by
  intro i h
  cases i with
  | nop | deq | init => rfl
  | alloc p r | csrRd r =>
    simp [encode, decode, decodeCommand, reserved, idxOf_commandWord_zero, immOf_commandWord_ofNat _ _ _ h]
  | release p i | bufInfo p i | bufHdr p i | tx p i =>
    simp [encode, decode, decodeCommand, reserved, idxOf_commandWord _ _ _ h]
  | bufAdd p i b =>
    simp only [encode, decode, decodeCommand, reserved, opcOf_commandWord, poolOf_commandWord, immLow_commandWord,
      immHigh_commandWord, idxOf_commandWord _ _ _ h]
    rfl
  | bufPull p i n | bufRd p i n =>
    obtain ⟨hi, hn⟩ := Bool.and_eq_true_iff.mp h
    simp [encode, decode, decodeCommand, idxOf_commandWord _ _ _ hi, immOf_commandWord_ofNat _ _ _ hn]
  | spurious | txReady => rfl
  | rxByte d => simp [encode, decode, decodeEvent]

/-- Settles O4: the kind and the data of `{kind, d}` are its two fields. -/
theorem eventWordsDecodeByKind : Obligations.EventWordsDecodeByKind := by
  intro kind d
  change decodeEvent (eventWord kind d) = _
  simp only [decodeEvent, kindOf_eventWord, dataOf_eventWord]
  by_cases h1 : kind = 1#2
  · simp only [h1, if_true]
  · by_cases hd : d = 0#8
    · simp only [h1, hd, ne_eq, not_true_eq_false, if_false, and_true]
    · simp only [h1, hd, ne_eq, not_false_eq_true, if_true, if_false, and_false]

/-! ### The reserved fields as masks -/

/-- A mask of the bits from `lo` to `hi` leaves nothing of a word exactly if that field is zero. -/
theorem and_mask_eq_zero_iff (w : Word) {m : Word} (hi lo : Nat)
    (hm : ∀ i < 32, m.getLsbD i = decide (lo ≤ i ∧ i < lo + (hi - lo + 1))) :
    w &&& m = 0#32 ↔ w.toNat / 2 ^ lo % 2 ^ (hi - lo + 1) = 0 := by
  rw [← toNat_field]
  constructor
  · intro h
    suffices hf : w.extractLsb hi lo = 0 by rw [hf]; rfl
    apply BitVec.eq_of_getLsbD_eq
    intro i hlt
    have hbit := congrArg (·.getLsbD (lo + i)) h
    by_cases hb : lo + i < 32
    · simpa [hm _ hb, hlt] using hbit
    · simp [BitVec.getLsbD_of_ge w (lo + i) (by omega)]
  · intro h
    have hf : w.extractLsb hi lo = 0 := BitVec.eq_of_toNat_eq h
    apply BitVec.eq_of_getLsbD_eq
    intro i hlt
    by_cases hb : lo ≤ i ∧ i < lo + (hi - lo + 1)
    · have hbit := congrArg (·.getLsbD (i - lo)) hf
      have hlo : lo + (i - lo) = i := by omega
      have hin : i - lo < hi - lo + 1 := by omega
      have hw : w.getLsbD i = false := by simpa [hlo, hin] using hbit
      simp [hw]
    · simp [hm _ hlt, hb]

theorem poolOf_eq_rx {w : Word} : poolOf w = .rx ↔ w.toNat / 2 ^ 23 % 2 = 0 := by
  rw [← toNat_bit_poolOf]
  cases poolOf w <;> simp [Pool.bit]

theorem idxOf_eq (w : Word) : idxOf w = w.toNat / 2 ^ 16 % 2 ^ 7 := toNat_field 22 16 w

theorem immOf_eq (w : Word) : immOf w = w.toNat % 2 ^ 16 := (toNat_field 15 0 w).trans (by simp)

theorem immHigh_eq_zero {w : Word} : immHigh w = 0#8 ↔ w.toNat / 2 ^ 8 % 2 ^ 8 = 0 := by
  rw [← toNat_field 15 8 w]
  exact ⟨fun h => congrArg BitVec.toNat h, fun h => BitVec.eq_of_toNat_eq h⟩

/-- The mask 0x00FFFFFF covers P, IDX and IMM. -/
theorem mask_operands (w : Word) : (poolOf w = .rx ∧ idxOf w = 0) ∧ immOf w = 0 ↔ w &&& 0x00FFFFFF#32 = 0#32 := by
  rw [and_mask_eq_zero_iff w 23 0 (by decide), poolOf_eq_rx, idxOf_eq, immOf_eq]
  omega

/-- The mask 0x007F0000 covers IDX. -/
theorem mask_idx (w : Word) : idxOf w = 0 ↔ w &&& 0x007F0000#32 = 0#32 := by
  rw [and_mask_eq_zero_iff w 22 16 (by decide), idxOf_eq]

/-- The mask 0x0000FFFF covers IMM. -/
theorem mask_imm (w : Word) : immOf w = 0 ↔ w &&& 0x0000FFFF#32 = 0#32 := by
  rw [and_mask_eq_zero_iff w 15 0 (by decide), immOf_eq]
  simp

/-- The mask 0x0000FF00 covers IMM's high byte. -/
theorem mask_immHigh (w : Word) : immHigh w = 0#8 ↔ w &&& 0x0000FF00#32 = 0#32 := by
  rw [and_mask_eq_zero_iff w 15 8 (by decide), immHigh_eq_zero]

/-- The mask 0x00FF0000 covers P and IDX. -/
theorem mask_poolIdx (w : Word) : poolOf w = .rx ∧ idxOf w = 0 ↔ w &&& 0x00FF0000#32 = 0#32 := by
  rw [and_mask_eq_zero_iff w 23 16 (by decide), poolOf_eq_rx, idxOf_eq]
  omega

/-- The word follows the opcode table: what the table's mask for its opcode says of it is what the decoder says. -/
def FollowsTable (w : Word) : Prop :=
  match reservedMask? (opcOf w) with
  | none => decodeCommand w = .error .illegalOpcode
  | some m => if w &&& m = 0#32 then ∃ i, decodeCommand w = .ok i else decodeCommand w = .error .reservedNonzero

/-- A row follows the table where its check says that the bits of its mask are zero. -/
theorem followsTable_of_row {w : Word} {o : BitVec 8} {m : Word} {b : Bool} {i : Instr} (ho : opcOf w = o)
    (hm : reservedMask? o = some m) (hd : decodeCommand w = reserved b i) (hb : b = true ↔ w &&& m = 0#32) :
    FollowsTable w := by
  subst ho
  simp only [FollowsTable, hm, hd, ← hb]
  cases b <;> simp [reserved]

/-- Settles O5: each row's check is zero exactly on the bits of its mask; an opcode of no row falls through to ILLEGAL_OPCODE. -/
theorem decoderFollowsTheReservedFields : Obligations.DecoderFollowsTheReservedFields := by
  intro w
  change FollowsTable w
  by_cases h00 : opcOf w = 0x00#8
  · exact followsTable_of_row h00 rfl (by rw [decodeCommand, h00]; rfl) (by simpa using mask_operands w)
  by_cases h01 : opcOf w = 0x01#8
  · exact followsTable_of_row h01 rfl (by rw [decodeCommand, h01]; rfl) (by simpa using mask_idx w)
  by_cases h02 : opcOf w = 0x02#8
  · exact followsTable_of_row h02 rfl (by rw [decodeCommand, h02]; rfl) (by simpa using mask_imm w)
  by_cases h03 : opcOf w = 0x03#8
  · exact followsTable_of_row h03 rfl (by rw [decodeCommand, h03]; rfl) (by simpa using mask_immHigh w)
  by_cases h04 : opcOf w = 0x04#8
  · exact followsTable_of_row (b := true) h04 rfl (by rw [decodeCommand, h04]; rfl) (by simp)
  by_cases h05 : opcOf w = 0x05#8
  · exact followsTable_of_row (b := true) h05 rfl (by rw [decodeCommand, h05]; rfl) (by simp)
  by_cases h06 : opcOf w = 0x06#8
  · exact followsTable_of_row h06 rfl (by rw [decodeCommand, h06]; rfl) (by simpa using mask_imm w)
  by_cases h07 : opcOf w = 0x07#8
  · exact followsTable_of_row h07 rfl (by rw [decodeCommand, h07]; rfl) (by simpa using mask_imm w)
  by_cases h10 : opcOf w = 0x10#8
  · exact followsTable_of_row h10 rfl (by rw [decodeCommand, h10]; rfl) (by simpa using mask_operands w)
  by_cases h20 : opcOf w = 0x20#8
  · exact followsTable_of_row h20 rfl (by rw [decodeCommand, h20]; rfl) (by simpa using mask_imm w)
  by_cases h30 : opcOf w = 0x30#8
  · exact followsTable_of_row h30 rfl (by rw [decodeCommand, h30]; rfl) (by simpa using mask_operands w)
  by_cases h31 : opcOf w = 0x31#8
  · exact followsTable_of_row h31 rfl (by rw [decodeCommand, h31]; rfl) (by simpa using mask_poolIdx w)
  · have hm : reservedMask? (opcOf w) = none := by
      simp [reservedMask?, List.lookup, beq_eq_false_iff_ne.mpr, *]
    simp [FollowsTable, decodeCommand, *]

end Sys2Proof
end

section
/-! PROOFS. One command, one event, one port step at a time: how a step comes to perform it (30_encoding.md R107, R112), and each
command's outcome for each of its cases, with what it leaves alone. -/

namespace Sys2Proof.Machine

/-! ### How a step comes by its instruction -/

/-- A command word placed on an IDLE port is the decoder's answer for it: performed, or a fault (R107, R303). -/
theorem act_command_of_idle {s : State} {k : Nat} {x : Port} (hx : s.port? k = some x) (hidle : x.state = .idle) (w : Word) :
    act (.command k w) s =
      match decodeCommand w with
      | .ok i => exec i { s with cmdPort := k }
      | .error .illegalOpcode => .next (State.raise { s with cmdPort := k } k .illegalOpcode)
      | .error .reservedNonzero => .next (State.raise { s with cmdPort := k } k .reservedNonzero)
      | .error .reservedEvent => .refused .reservedEvent := by
  change (match fetchCommand k w s with | .ok (i, t) => exec i t | .error o => o) = _
  simp only [fetchCommand, hx, hidle, decode_command, ne_eq, not_true_eq_false, if_false]
  cases decodeCommand w with
  | ok i => rfl
  | error e => cases e <;> rfl

/-- A command word placed on a port that is not there is refused. -/
theorem act_command_of_noPort {s : State} {k : Nat} (hx : s.port? k = none) (w : Word) :
    act (.command k w) s = .refused .noSuchPort := by
  simp [step, fetch, fetchCommand, show State.port? { s with schedule := s.schedule } k = none from hx]

/-- A command word placed on a port that is not IDLE is refused (R107). -/
theorem act_command_of_busy {s : State} {k : Nat} {x : Port} (hx : s.port? k = some x) (hbusy : x.state ≠ .idle) (w : Word) :
    act (.command k w) s = .refused .portNotIdle := by
  simp [step, fetch, fetchCommand, show State.port? { s with schedule := s.schedule } k = some x from hx, hbusy]

/-- A word that is no event is refused (R182). -/
theorem act_event_of_error {w : EventWord} {e : DecodeError} (hd : decodeEvent w = .error e) (s : State) :
    act (.event w) s = .refused .reservedEvent := by
  simp only [step, fetch, fetchEvent, decode_event, hd]

/-- Settles O6: the decoder's error is raised on the port. -/
theorem undecodableWordFaultsItsPort : Obligations.UndecodableWordFaultsItsPort := by
  intro s k x w hx hidle
  constructor <;> intro hd <;> refine ⟨_, ?_, raise_frame { s with cmdPort := k } k _⟩ <;>
    rw [act_command_of_idle hx hidle, hd]

/-- Settles O7: the decoder's answer for the word is the instruction. -/
theorem stepRunsThePlacedCommand : Obligations.StepRunsThePlacedCommand := by
  intro s k x w i hx hidle hd
  rw [act_command_of_idle hx hidle, hd]

/-- Settles O8: the decoder's answer for the event word is the instruction. -/
theorem stepRunsTheDeliveredEvent : Obligations.StepRunsTheDeliveredEvent :=
  fun s _ _ hd => act_event_of_decode hd s

theorem State.port?_eq_none_of_le {s : State} {k : Nat} (h : s.cfg.nCmdPorts ≤ k) : s.port? k = none :=
  if_neg (Nat.not_lt.mpr h)

/-- No port waits for the collaborator exactly when no call is outstanding (R262). -/
theorem State.calling?_eq_none {s : State} (h : s.allPorts (fun _ x => x.state.awaitsCollaborator = false)) :
    s.calling? = none := by
  simp only [State.calling?, List.find?_eq_none, List.mem_range, Bool.not_eq_true]
  intro k hk
  unfold State.portAwaits
  split
  · rfl
  · next x hx => exact h k hk x hx

/-- Settles O9: each refusal is the first check that fails. -/
theorem environmentMisuseIsRefused : Obligations.EnvironmentMisuseIsRefused := by
  intro s k w e y
  refine ⟨fun hk => act_command_of_noPort (State.port?_eq_none_of_le hk) w, fun x hx hbusy => act_command_of_busy hx hbusy w,
    fun he => act_event_of_error he s, fun hnone => ?_⟩
  simp only [act_answer, collaboratorAnswer, State.calling?_eq_none hnone]

/-! ### Frames of a command's outcome -/

/-- A command that updates the tags of one buffer and answers changes those tags, its response, and nothing else. -/
theorem updBuf_respond_frame {s : State} {p : Pool} {i : Nat} {b : Buffer} (hb : s.buf? p i = some b) (f : Buffer → Buffer)
    (hf : ∀ x, (f x).data = x.data) (k : Nat) (c : Code) (v : Word) :
    SameRegisters s ((s.updBuf p i f).respond k c v) ∧ OnlyTags s ((s.updBuf p i f).respond k c v) p i (f b).tags ∧
      SameBytes s ((s.updBuf p i f).respond k c v) ∧ Responded s ((s.updBuf p i f).respond k c v) k c.byte v := by
  obtain ⟨hr, ht, hd, hp⟩ := updBuf_tags_frame hb f hf
  exact ⟨hr, ht, hd, fun k' => by simp [State.port?_updPort]⟩

/-! ### Control -/

/-- Settles O35: NOP responds. -/
theorem nopOnlyResponds : Obligations.NopOnlyResponds := fun s => ⟨_, rfl, respond_frame s s.cmdPort .ok 0#32⟩

/-- Settles O36: INIT's three cases, by the phase and by whether the UART is bound. -/
theorem initStartsTheSequence : Obligations.InitStartsTheSequence := by
  intro s
  refine ⟨fun hp => ⟨_, ?_, raise_frame s s.cmdPort .alreadyInit⟩,
    fun hp hu => ⟨_, ?_, respond_frame s s.cmdPort .bindFail 0#32⟩,
    fun hp hu => ⟨_, ?_, frame_updPort { s with initPhase := .disabling } s.cmdPort _⟩⟩
  · simp only [exec, execInit, hp, ne_eq, not_false_eq_true, if_true]
  · simp only [exec, execInit, hp, hu, ne_eq, not_true_eq_false, if_false, if_true]
  · simp only [exec, execInit, hp, hu, ne_eq, not_true_eq_false, if_false, Bool.true_eq_false]
    rfl

/-- Every number up to 0x0E has a CSR, and no other has one (R36). -/
theorem State.csr?_isSome (s : State) (c : Nat) : (s.csr? c).isSome = decide (c ≤ 0x0E) := by
  obtain h | ⟨n, rfl⟩ : c ≤ 0x0E ∨ ∃ n, c = n + 15 := by
    by_cases h : c ≤ 0x0E
    · exact .inl h
    · exact .inr ⟨c - 15, by omega⟩
  · interval_cases c <;> rfl
  · simp [State.csr?]

/-- Settles O39: the numbers with a CSR are those up to 0x0E. -/
theorem csrRdAnswersTheCsr : Obligations.CsrRdAnswersTheCsr := by
  intro s c
  have hc := s.csr?_isSome c
  refine ⟨fun h => ⟨_, ?_, raise_frame s s.cmdPort .illegalCsr⟩, fun h => ?_⟩
  · have hn : s.csr? c = none := by simpa [Nat.not_le.mpr h] using hc
    simp only [exec, execCsrRd, hn]
  · obtain ⟨y, hy⟩ := Option.isSome_iff_exists.mp (hc.trans (decide_eq_true h))
    exact ⟨_, y, hy, by simp only [exec, execCsrRd, hy], respond_frame s s.cmdPort .ok y⟩

/-! ### Buffer pool commands -/

/-- Settles O11: the reserve's check, then PoolAlloc's answer, which is the lowest free buffer. -/
theorem allocTakesTheLowestFreeBuffer : Obligations.AllocTakesTheLowestFreeBuffer := by
  intro s p r hs
  refine ⟨fun hr => ⟨_, if_pos hr, raise_frame s s.cmdPort .badReserve⟩,
    fun hr hnone => ⟨_, ?_, respond_frame s s.cmdPort .exhausted 0#32⟩, fun i b hr hb hf hlow => ?_⟩
  · simp only [exec, execAlloc, Nat.not_lt.mpr hr, if_false, State.poolAlloc?_exhausted hnone]
  · have hcap := hs.cap_le p
    have hn := hs.poolN_le p
    have hi := State.lt_of_buf? hb
    refine ⟨_, BitVec.ofNat 16 r, BitVec.ofNat 32 i, ?_, Nat.mod_eq_of_lt (by omega), Nat.mod_eq_of_lt (by omega),
      updBuf_respond_frame hb (Buffer.allocated r .client) (fun _ => rfl) s.cmdPort .ok _⟩
    simp only [exec, execAlloc, Nat.not_lt.mpr hr, if_false, State.poolAlloc?_of_lowest hb hf hlow]

section ClientBuffer
variable {s : State} {p : Pool} {i : Nat} {b : Buffer} (hb : s.buf? p i = some b) (ho : b.owner = .client)
include hb ho

theorem checkBuf_of_client (c : Cause) : checkBuf s p i c = .ok b := checkBuf_ok.mpr ⟨hb, ho⟩

theorem exec_release_of_client :
    exec (.release p i) s = .next ((s.setOwner p i .free).respond s.cmdPort .ok 0#32) := by
  simp only [exec, execRelease, checkBuf_of_client hb ho]

theorem exec_bufAdd_of_full (v : Byte) (h : s.cap p ≤ b.head.toNat + b.len.toNat) :
    exec (.bufAdd p i v) s = .next (s.raise s.cmdPort .bufOverflow) := by
  simp only [exec, execBufAdd, checkBuf_of_client hb ho, h, if_true]

/-- BUF_ADD with room writes at the tail and counts the byte (R133). -/
theorem exec_bufAdd_of_room (v : Byte) (h : b.head.toNat + b.len.toNat < s.cap p) :
    exec (.bufAdd p i v) s =
      .next ((s.updBuf p i (Buffer.stored (b.head.toNat + b.len.toNat) v)).respond s.cmdPort .ok 0#32) := by
  have hw := (State.bufWrite?_eq_some (v := v)).mpr ⟨⟨b, hb⟩, h, rfl⟩
  simp only [exec, execBufAdd, checkBuf_of_client hb ho, Nat.not_le.mpr h, if_false, hw, State.updBuf_updBuf]
  rfl

theorem exec_bufPull_of_underflow {n : Nat} (h : b.len.toNat < n) :
    exec (.bufPull p i n) s = .next (s.raise s.cmdPort .bufUnderflow) := by
  simp only [exec, execBufPull, checkBuf_of_client hb ho, h, if_true]

/-- What BUF_PULL leaves of its buffer (R134). -/
def Buffer.pulled (n : Nat) (b : Buffer) : Buffer :=
  { b with head := b.head + BitVec.ofNat 16 n, len := b.len - BitVec.ofNat 16 n }

theorem exec_bufPull_of_le {n : Nat} (h : n ≤ b.len.toNat) :
    exec (.bufPull p i n) s = .next ((s.updBuf p i (Buffer.pulled n)).respond s.cmdPort .ok 0#32) := by
  simp only [exec, execBufPull, checkBuf_of_client hb ho, Nat.not_lt.mpr h, if_false]
  rfl

theorem exec_bufRd_of_out {o : Nat} (h : b.len.toNat ≤ o) :
    exec (.bufRd p i o) s = .next (s.raise s.cmdPort .outOfRange) := by
  simp only [exec, execBufRd, checkBuf_of_client hb ho, h, if_true]

theorem exec_bufRd_of_lt {o : Nat} {v : Byte} (h : o < b.len.toNat) (hv : s.bufRead? p i (b.head.toNat + o) = some v) :
    exec (.bufRd p i o) s = .next (s.respond s.cmdPort .ok (v.setWidth 32)) := by
  simp only [exec, execBufRd, checkBuf_of_client hb ho, Nat.not_le.mpr h, if_false, hv]

theorem exec_bufInfo_of_client : exec (.bufInfo p i) s = .next (s.respond s.cmdPort .ok (b.head ++ b.len)) := by
  simp only [exec, execBufInfo, checkBuf_of_client hb ho]

end ClientBuffer

/-- BUF_HDR of a client's receive buffer answers what the receiver latched (R137). -/
theorem exec_bufHdr_of_client {s : State} {i : Nat} {b : Buffer} (hb : s.buf? .rx i = some b) (ho : b.owner = .client) :
    exec (.bufHdr .rx i) s = .next (s.respond s.cmdPort .ok (0#16 ++ b.src ++ b.chan)) := by
  simp only [exec, execBufHdr, ne_eq, not_true_eq_false, if_false, checkBuf_of_client hb ho]

/-- Settles O12: the owner is all that the command changes of the buffer. -/
theorem releaseFreesTheBuffer : Obligations.ReleaseFreesTheBuffer := fun s _ _ _ hb ho =>
  ⟨_, exec_release_of_client hb ho, updBuf_respond_frame hb (fun b => { b with owner := .free }) (fun _ => rfl) s.cmdPort .ok _⟩

/-- Settles O13: with room at the tail, one BufWrite there and one more in len, which does not wrap. -/
theorem bufAddAppendsOneByte : Obligations.BufAddAppendsOneByte := by
  intro s p i v b hs hb ho hw
  refine ⟨fun h => ⟨_, exec_bufAdd_of_full hb ho v h, raise_frame s s.cmdPort .bufOverflow⟩, fun h => ?_⟩
  have hl : (b.len + 1#16).toNat = b.len.toNat + 1 := by
    have := hs.cap_le p
    bv_omega
  obtain ⟨hr, ht, hd, -⟩ := updBuf_write_frame hb hw h (Buffer.stored (b.head.toNat + b.len.toNat) v) (fun _ => rfl)
  refine ⟨_, _, exec_bufAdd_of_room hb ho v h, hl, hr, ?_, hd, fun k' => ?_⟩
  · rw [← ho]
    exact ht
  · simp [State.port?_updPort, Code.byte]

/-- Settles O14: the cursors move by `n`, and neither wraps. -/
theorem bufPullConsumesFromTheFront : Obligations.BufPullConsumesFromTheFront := by
  intro s p i n b hs hb ho hc
  refine ⟨fun h => ⟨_, exec_bufPull_of_underflow hb ho h, raise_frame s s.cmdPort .bufUnderflow⟩, fun h => ?_⟩
  have := hs.cap_le p
  have hn : (BitVec.ofNat 16 n).toNat = n := Nat.mod_eq_of_lt (by omega)
  have hh : (b.head + BitVec.ofNat 16 n).toNat = b.head.toNat + n := by bv_omega
  have hl : (b.len - BitVec.ofNat 16 n).toNat = b.len.toNat - n := by bv_omega
  obtain ⟨hr, ht, hd, hp⟩ := updBuf_respond_frame hb (Buffer.pulled n) (fun _ => rfl) s.cmdPort .ok 0#32
  exact ⟨_, _, _, exec_bufPull_of_le hb ho h, hh, hl, hr, by rw [← ho]; exact ht, hd, hp⟩

/-- A byte of a buffer that exists reads, within the capacity (R62). -/
theorem State.exists_bufRead? {s : State} {p : Pool} {i j : Nat} {b : Buffer} (hb : s.buf? p i = some b) (hj : j < s.cap p) :
    ∃ v, s.bufRead? p i j = some v := ⟨_, State.bufRead?_eq_some.mpr ⟨b, hb, hj, rfl⟩⟩

/-- Settles O15: an offset below len lies in buffer space. -/
theorem bufRdAnswersTheByte : Obligations.BufRdAnswersTheByte := by
  intro s p i o b hb ho hc
  refine ⟨fun h => ⟨_, exec_bufRd_of_out hb ho h, raise_frame s s.cmdPort .outOfRange⟩, fun h => ?_⟩
  obtain ⟨v, hv⟩ := State.exists_bufRead? hb (j := b.head.toNat + o) (by omega)
  have hy : (v.setWidth 32).toNat = v.toNat := by
    rw [BitVec.toNat_setWidth]
    exact Nat.mod_eq_of_lt (by omega)
  exact ⟨_, v, _, exec_bufRd_of_lt hb ho h hv, hv, hy, respond_frame s s.cmdPort .ok _⟩

/-- Settles O16: the two halves of the answer read back. -/
theorem bufInfoAnswersTheCursors : Obligations.BufInfoAnswersTheCursors := by
  intro s p i b hb ho
  have hy := toNat_append_eq b.head b.len
  refine ⟨_, b.head ++ b.len, exec_bufInfo_of_client hb ho, field_eq ?_, field_eq ?_, respond_frame s s.cmdPort .ok _⟩
  · omega
  · omega

/-- Settles O17: the pool is checked first; the fields of the answer read back. -/
theorem bufHdrAnswersTheLatchedHeader : Obligations.BufHdrAnswersTheLatchedHeader := by
  intro s i
  refine ⟨⟨_, rfl, raise_frame s s.cmdPort .wrongPool⟩, fun b hb ho => ?_⟩
  have hy : (0#16 ++ b.src ++ b.chan).toNat = b.src.toNat * 2 ^ 8 + b.chan.toNat := by
    rw [toNat_append_eq, toNat_append_eq, show (0#16).toNat = 0 from rfl, Nat.zero_mul, Nat.zero_add]
  refine ⟨_, 0#16 ++ b.src ++ b.chan, exec_bufHdr_of_client hb ho, field_eq_zero ?_, field_eq ?_, field_eq ?_,
    respond_frame s s.cmdPort .ok _⟩
  all_goals omega

/-! ### Dispatch queue -/

/-- A FIFO index answers as the number it is. -/
theorem toNat_answer (i : BitVec 5) : (i.setWidth 32 : Word).toNat = i.toNat := by
  rw [BitVec.toNat_setWidth]
  exact Nat.mod_eq_of_lt (by omega)

/-- Settles O18: by the port, then by whether the FIFO is empty. -/
theorem deqTakesTheOldestBuffer : Obligations.DeqTakesTheOldestBuffer := by
  intro s
  refine ⟨fun h => ⟨_, if_pos h, raise_frame s s.cmdPort .wrongPort⟩, fun h hq => ⟨_, ?_, frame_updPort s 0 _⟩,
    fun i rest b h hq hb => ?_⟩
  · simp only [exec, execDeq, h, hq, ne_eq, not_true_eq_false, if_false]
    rfl
  · obtain ⟨t, ht, hframe⟩ := deqComplete_next rest hb
    refine ⟨t, _, ?_, toNat_answer i, hframe⟩
    simp only [exec, execDeq, h, hq, ht, ne_eq, not_true_eq_false, if_false]

/-- Settles O19: the port's step is DeqComplete. -/
theorem heldDeqCompletesWhenAFrameIsQueued : Obligations.HeldDeqCompletesWhenAFrameIsQueued := by
  intro s x i rest b hx hhold hq hb
  obtain ⟨t, ht, hframe⟩ := deqComplete_next rest hb
  refine ⟨t, _, ?_, toNat_answer i, hframe⟩
  simp only [act_port, portStep, hx, hhold, hq, ht]

/-! ### Transmit framer -/

/-- Settles O20: the pool, the index, then the framer. -/
theorem txIsCheckedOrHeldWhenPlaced : Obligations.TxIsCheckedOrHeldWhenPlaced := by
  intro s i
  refine ⟨⟨_, rfl, raise_frame s s.cmdPort .wrongPool⟩, fun h => ⟨_, ?_, raise_frame s s.cmdPort .invalidId⟩,
    fun h hbusy => ⟨_, ?_, frame_updPort s s.cmdPort _⟩⟩
  · simp only [exec, execTx, h, ne_eq, not_true_eq_false, if_false, if_true]
  · simp only [exec, execTx, Nat.not_le.mpr h, hbusy, ne_eq, not_true_eq_false, if_false, if_true]
    rfl

/-- The framer's step of a ready UART sends the byte at `tx_pos`, and the last byte completes the frame (R213, R214). -/
theorem framerStep_of_busy {s : State} {b : Buffer} {v : Byte} (hbusy : s.txBusy = true)
    (hb : s.buf? .tx s.txIdx.toNat = some b) (hv : s.bufRead? .tx s.txIdx.toNat (b.head.toNat + s.txPos.toNat) = some v) :
    framerStep true s =
      if s.txPos + 1#16 = b.len then .next (txComplete { s with uartTx := s.uartTx ++ [v], txPos := s.txPos + 1#16 })
      else .next { s with uartTx := s.uartTx ++ [v], txPos := s.txPos + 1#16 } := by
  have hready : (s.txBusy && true) = true := by simp [hbusy]
  simp only [framerStep, hready, hb, hv, if_true]
  rfl

/-- A framer without a frame, or without a ready UART, stays as it is (log 8). -/
theorem framerStep_of_hold {ready : Bool} {s : State} (h : s.txBusy = false ∨ ready = false) : framerStep ready s = .next s :=
  if_neg (by rcases h with h | h <;> simp [h])

/-- TxComplete's frame (R214): the framer's registers, its buffer's owner, its port, and nothing else. -/
theorem txComplete_frame {s : State} {b : Buffer} (hb : s.buf? .tx s.txIdx.toNat = some b) :
    SameRegisters { s with txBusy := false, txIdx := 0#5, txPos := 0#16, txPort := 0#8 } (txComplete s) ∧
      OnlyTags s (txComplete s) .tx s.txIdx.toNat (.free, b.head, b.len, b.chan, b.src) ∧ SameBytes s (txComplete s) ∧
      OnlyPort s (txComplete s) s.txPort.toNat (fun _ => { state := .idle, rspCode := 0x00#8, rspValue := 0#32 }) := by
  refine ⟨(frame_refl _).1, onlyTags_of_updBuf hb (fun b => { b with owner := .free }) (fun _ _ => rfl) rfl,
    sameBytes_of_updBuf (p := .tx) (i := s.txIdx.toNat) (fun b => { b with owner := .free }) (fun _ _ => rfl) rfl rfl
      (fun _ => rfl), fun k' => ?_⟩
  rw [txComplete_port?]
  split
  · next h => rw [h]
  · rfl

/-- Settles O22: the byte at `tx_pos` lies in buffer space, and the position does not wrap. -/
theorem framerSendsTheNextByte : Obligations.FramerSendsTheNextByte := by
  intro s b hbusy hb hc
  have hsend (hp : s.txPos.toNat < b.len.toNat) := State.exists_bufRead? hb (j := b.head.toNat + s.txPos.toNat) (by omega)
  refine ⟨fun hp => ?_, fun hp => ?_, framerStep_of_hold (.inr rfl)⟩
  · obtain ⟨v, hv⟩ := hsend (by omega)
    have hn : (s.txPos + 1#16).toNat = s.txPos.toNat + 1 := by bv_omega
    have hne : s.txPos + 1#16 ≠ b.len := fun e => by rw [e] at hn; omega
    exact ⟨_, v, _, (framerStep_of_busy hbusy hb hv).trans (if_neg hne), hv, hn, frame_refl _⟩
  · obtain ⟨v, hv⟩ := hsend (by omega)
    have he : s.txPos + 1#16 = b.len := by bv_omega
    exact ⟨_, v, (framerStep_of_busy hbusy hb hv).trans (if_pos he), hv,
      txComplete_frame (s := { s with uartTx := s.uartTx ++ [v], txPos := s.txPos + 1#16 }) hb⟩

/-- A port whose held command waits for what has not come, or that waits for another agent, stays as it is (log 8). -/
theorem portStep_of_hold {s : State} {k : Nat} {x : Port} (hx : s.port? k = some x)
    (h : (∃ i, x.state = .holdTx i ∧ s.txBusy = true) ∨ (x.state = .holdDeq ∧ s.q = []) ∨ x.state = .idle ∨ x.state = .txWait ∨
      x.state = .initDisable ∨ x.state = .initEnable) : portStep k s = .next s := by
  unfold portStep
  rw [hx]
  obtain ⟨i, h, hb⟩ | ⟨h, hq⟩ | h | h | h | h := h <;> simp only [h]
  · rw [if_pos hb]
  · rw [hq]

/-- Settles O23: the framer's hold, and each hold of a port. -/
theorem holdsChangeNothing : Obligations.HoldsChangeNothing := fun _ =>
  ⟨fun _ h => framerStep_of_hold h, fun _ _ hx h => portStep_of_hold hx (h.imp_right (Or.imp_right .inr))⟩

/-! ### Frame receiver -/

/-- The event word of an RX_BYTE is performed as that event (R112). -/
theorem act_rxByte (d : Byte) (s : State) : act (.event (eventWord 1#2 d)) s = exec (.rxByte d) s :=
  act_event_of_decode (decodeOfEncodeIsTheInstruction (.rxByte d) rfl) s

/-- A receiver that is disabled, or has no byte waiting, stays as it is (log 8). -/
theorem exec_rxByte_of_hold {s : State} (h : s.rxEn = false ∨ s.uartRx = []) (d : Byte) : exec (.rxByte d) s = .next s := by
  unfold exec execRxByte
  obtain h | h := h <;> simp [h]

/-- Settles O30: the receiver holds, and the event word is that event. -/
theorem receiverHoldsWithoutEnableOrByte : Obligations.ReceiverHoldsWithoutEnableOrByte := fun s d h =>
  ⟨exec_rxByte_of_hold h d, (act_rxByte d s).trans (exec_rxByte_of_hold h d)⟩

/-- Settles O31: whatever DATA, the byte taken is the one at the front. -/
theorem receiverTakesTheFrontByteWhateverData : Obligations.ReceiverTakesTheFrontByteWhateverData := fun s d v _ he hu =>
  ⟨((act_rxByte d s).trans (exec_rxByte_of_waiting he hu d)).trans (exec_rxByte_of_waiting he hu v).symm,
    exec_rxByte_of_waiting he hu d⟩

/-! ### Quiescence -/

/-- A port `k < N_CMD_PORTS` of a state with as many ports exists (R58). -/
theorem State.exists_port {s : State} {k : Nat} (hk : k < s.cfg.nCmdPorts) (hn : s.ports.length = s.cfg.nCmdPorts) :
    ∃ x, s.port? k = some x :=
  ⟨_, (if_pos hk).trans (List.getElem?_eq_getElem (by omega))⟩

/-- Settles O60: the receiver, the framer and each port hold. -/
theorem quiescentStateIsStill : Obligations.QuiescentStateIsStill := by
  intro s ⟨hrx, htx, hports⟩
  have hhold : s.rxEn = false ∨ s.uartRx = [] := by simpa [State.rxPending, ← Bool.not_eq_true, imp_iff_not_or] using hrx
  refine ⟨fun w i hd => ?_, fun ready => framerStep_of_hold (.inl htx), fun k hk hn => ?_⟩
  · have hevent := decodeEvent_event hd
    rw [act_event_of_decode hd]
    cases i with
    | rxByte d => exact exec_rxByte_of_hold hhold d
    | spurious | txReady => rfl
    | nop | alloc | release | bufAdd | bufPull | bufRd | bufInfo | bufHdr | deq | tx | init | csrRd => cases hevent
  · obtain ⟨x, hx⟩ := State.exists_port hk hn
    obtain h | h := hports k hk x hx
    · exact portStep_of_hold hx (.inr (.inr (.inl h)))
    · exact portStep_of_hold hx (.inr (.inl h))

end Sys2Proof.Machine
end

section
/-! PROOFS. What a step can do: for each agent a relation from the state it moves in to the outcome, next states and the model's
faults alike, each with the conditions under which it comes about. What is said of all steps is derived from these. -/

namespace Sys2Proof.Machine

/-! ### Updates of one buffer -/

theorem State.updBuf_id (s : State) (p : Pool) (i : Nat) : s.updBuf p i (fun b => b) = s := by
  have hid (bs : List Buffer) : bs.modify i (fun b => b) = bs := List.modify_id i bs
  cases p <;> simp [State.updBuf, State.setPool, State.pool, hid]

/-- Of an update only what it makes of the buffer that is there matters. -/
theorem State.updBuf_congr {s : State} {p : Pool} {i : Nat} {b : Buffer} {f g : Buffer → Buffer} (hb : s.buf? p i = some b)
    (h : f b = g b) : s.updBuf p i f = s.updBuf p i g := by
  have hmem : (s.pool p)[i]? = some b := by
    rwa [State.buf?, if_pos (State.lt_of_buf? hb)] at hb
  have hlist : (s.pool p).modify i f = (s.pool p).modify i g := by
    apply List.ext_getElem?
    intro n
    by_cases hn : i = n
    · subst hn; simp [hmem, h]
    · simp [hn]
  simp only [State.updBuf, hlist]

/-- The bytes after writes at `j`, `j + 1` and so on. -/
def Memory.writes (m : Memory) (j : Nat) : List Byte → Memory
  | [] => m
  | v :: vs => (m.write j v).writes (j + 1) vs

/-- Successive BufWrites are one update of their buffer. -/
theorem State.eq_of_bufWrites? {p : Pool} {i : Nat} (vs : List Byte) :
    ∀ {s t : State} {j : Nat}, s.bufWrites? p i j vs = some t →
      t = s.updBuf p i (fun b => { b with data := b.data.writes j vs }) := by
  induction vs with
  | nil =>
    intro s t j h
    cases h
    exact (s.updBuf_id p i).symm
  | cons v vs ih =>
    intro s t j h
    obtain ⟨u, hu, h⟩ := State.bufWrites?_cons.mp h
    obtain ⟨-, -, rfl⟩ := State.bufWrite?_eq_some.mp hu
    rw [ih h, State.updBuf_updBuf]
    rfl

/-- Successive BufWrites that begin and end in buffer space succeed (R62). -/
theorem State.bufWrites?_isSome {p : Pool} {i : Nat} (vs : List Byte) :
    ∀ {s : State} {j : Nat} {b : Buffer}, s.buf? p i = some b → j + vs.length ≤ s.cap p →
      ∃ t, s.bufWrites? p i j vs = some t := by
  induction vs with
  | nil => exact fun _ _ => ⟨_, rfl⟩
  | cons v vs ih =>
    intro s j b hb hc
    rw [List.length_cons] at hc
    have hu := (State.bufWrite?_eq_some (v := v)).mpr ⟨⟨b, hb⟩, show j < s.cap p by omega, rfl⟩
    obtain ⟨t, ht⟩ := ih (s := s.updBuf p i (fun b => { b with data := b.data.write j v })) (j := j + 1)
      (by rw [State.buf?_updBuf_same, hb]; rfl) (by rw [State.cap_updBuf]; omega)
    exact ⟨t, State.bufWrites?_cons.mpr ⟨_, hu, ht⟩⟩

/-! ### What a step can do to one buffer -/

/-- What the handoff to the framer leaves of a buffer (R211): the header before the payload. -/
def Buffer.framed (b : Buffer) : Buffer :=
  { b with
    owner := .transmitter
    head := b.head - 4#16
    len := b.len + 4#16
    data := b.data.writes (b.head.toNat - 4) (headerBytes b.len 0#8 0#8) }

/-- What a step can do to a buffer of pool `p`, and of which owner: nothing; ALLOC, RELEASE, BUF_ADD, BUF_PULL (40_pool.md); the
header's allocation, a payload byte with or without the handoff to the FIFO (41_receiver.md); DeqComplete (43_queue.md); the
handoff to the framer and the frame's end (42_transmit.md). -/
inductive BufferStep (p : Pool) (cap : Nat) (b : Buffer) : Buffer → Prop
  | kept : BufferStep p cap b b
  | allocated {r : Nat} (ho : b.owner = .free) (hr : r ≤ cap) : BufferStep p cap b (b.allocated r .client)
  | released (ho : b.owner = .client) : BufferStep p cap b { b with owner := .free }
  | appended {v : Byte} (ho : b.owner = .client) (hroom : b.head.toNat + b.len.toNat < cap) :
      BufferStep p cap b (b.stored (b.head.toNat + b.len.toNat) v)
  | pulled {n : Nat} (ho : b.owner = .client) (hn : n ≤ b.len.toNat) : BufferStep p cap b (b.pulled n)
  | addressed {o : Owner} {chan src : Byte} (hp : p = .rx) (ho : b.owner = .free) (hnew : o = .receiver ∨ o = .queue) :
      BufferStep p cap b (b.addressed o chan src)
  | stored {v : Byte} {o : Owner} (hp : p = .rx) (ho : b.owner = .receiver) (hroom : b.head.toNat + b.len.toNat < cap)
      (hnew : o = .receiver ∨ o = .queue) :
      BufferStep p cap b { b.stored (b.head.toNat + b.len.toNat) v with owner := o }
  | taken (hp : p = .rx) (ho : b.owner = .queue) : BufferStep p cap b { b with owner := .client }
  | framed (hp : p = .tx) (ho : b.owner = .client) (hh : 4 ≤ b.head.toNat) : BufferStep p cap b b.framed
  | sent (hp : p = .tx) (ho : b.owner = .transmitter) : BufferStep p cap b { b with owner := .free }

/-! ### Dispatch queue and transmit -/

/-- DeqComplete (R242) of the FIFO's head. -/
inductive DeqDoes (s : State) : Out → Prop
  | noBuffer {i : BitVec 5} {rest : List (BitVec 5)} (hq : s.q = i :: rest) (hb : s.buf? .rx i.toNat = none) :
      DeqDoes s (.fault .noSuchBuffer)
  | takes {i : BitVec 5} {rest : List (BitVec 5)} {b : Buffer} (hq : s.q = i :: rest) (hb : s.buf? .rx i.toNat = some b) :
      DeqDoes s (.next ((State.updBuf { s with q := rest } .rx i.toNat (fun b => { b with owner := .client })).updPort 0
        (fun _ => { state := .idle, rspCode := 0x00#8, rspValue := i.setWidth 32 })))

theorem deqComplete_does {s : State} {i : BitVec 5} {rest : List (BitVec 5)} (hq : s.q = i :: rest) :
    DeqDoes s (deqComplete i rest s) := by
  unfold deqComplete
  split
  · next hb => exact .noBuffer hq hb
  · next b hb =>
    simp only [State.respond_eq, State.setPortState_eq, State.updPort_updPort]
    exact .takes hq hb

/-- The state after the handoff to the framer (R211), with the framer's registers. -/
def State.sending (s : State) (k i : Nat) : State :=
  { s with txBusy := true, txIdx := BitVec.ofNat 5 i, txPos := 0#16, txPort := BitVec.ofNat 8 k }

/-- TxAccept (R210 part 2, R211), of buffer `i` for port `k`. -/
inductive TxDoes (s : State) (k i : Nat) : Out → Prop
  | noBuffer (hb : s.buf? .tx i = none) : TxDoes s k i (.fault .noSuchBuffer)
  | faults (c : Cause) : TxDoes s k i (.next (txFault k c s))
  | outside {b : Buffer} (hb : s.buf? .tx i = some b) (hh : 4 ≤ b.head.toNat) (hc : s.cap .tx < b.head.toNat) :
      TxDoes s k i (.fault .bufferAccess)
  | accepts {b : Buffer} (hb : s.buf? .tx i = some b) (ho : b.owner = .client) (hh : 4 ≤ b.head.toNat) :
      TxDoes s k i (.next (((s.sending k i).updBuf .tx i Buffer.framed).updPort k (fun x => { x with state := .txWait })))

/-- The push of four bytes, the writes before the payload and the handoff are one update of the buffer. -/
theorem txHandoff_eq {s : State} {k i : Nat} {b : Buffer} (hb : s.buf? .tx i = some b) :
    txHandoff k i ((s.bufPush .tx i 4).updBuf .tx i
        (fun x => { x with data := x.data.writes (b.head.toNat - 4) (headerBytes b.len 0#8 0#8) })) =
      ((s.sending k i).updBuf .tx i Buffer.framed).updPort k (fun x => { x with state := .txWait }) := by
  have hb' : (s.sending k i).buf? .tx i = some b := hb
  rw [← State.updBuf_congr (f := fun x => { x with
    owner := .transmitter, head := x.head - 4#16, len := x.len + 4#16
    data := x.data.writes (b.head.toNat - 4) (headerBytes b.len 0#8 0#8) }) hb' rfl, State.bufPush_eq, State.updBuf_updBuf]
  simp only [txHandoff, State.setOwner_eq, State.updBuf_updBuf]
  rfl

theorem txAccept_does (s : State) (k i : Nat) : TxDoes s k i (txAccept k i s) := by
  unfold txAccept
  split
  · next hb => exact .noBuffer hb
  next b hb =>
  split
  · exact .faults .notOwned
  next ho =>
  split
  · exact .faults .noHeadroom
  next hh =>
  have hh : 4 ≤ b.head.toNat := Nat.not_lt.mp hh
  split
  · next hw =>
    refine .outside hb hh (Nat.not_le.mp fun hc => ?_)
    obtain ⟨t, ht⟩ := State.bufWrites?_isSome (headerBytes b.len 0#8 0#8) (s := s.bufPush .tx i 4) (j := b.head.toNat - 4)
      (by rw [State.bufPush_eq, State.buf?_updBuf_same, hb]; rfl) (by simp [headerBytes]; omega)
    rw [hw] at ht
    cases ht
  · next t ht =>
    rw [State.eq_of_bufWrites? _ ht, txHandoff_eq hb]
    exact .accepts hb (Decidable.not_not.mp ho) hh

/-- FramerStep (R213, R214) of a busy framer with a ready UART. -/
inductive FramerDoes (s : State) : Out → Prop
  | noBuffer (hb : s.buf? .tx s.txIdx.toNat = none) : FramerDoes s (.fault .noSuchBuffer)
  | outside {b : Buffer} (hb : s.buf? .tx s.txIdx.toNat = some b) (hc : s.cap .tx ≤ b.head.toNat + s.txPos.toNat) :
      FramerDoes s (.fault .bufferAccess)
  | sends {b : Buffer} (v : Byte) (hb : s.buf? .tx s.txIdx.toNat = some b) (hp : s.txPos + 1#16 ≠ b.len) :
      FramerDoes s (.next { s with uartTx := s.uartTx ++ [v], txPos := s.txPos + 1#16 })
  | completes {b : Buffer} (v : Byte) (hb : s.buf? .tx s.txIdx.toNat = some b) :
      FramerDoes s (.next ((State.updBuf { s with
        uartTx := s.uartTx ++ [v], txBusy := false, txIdx := 0#5, txPos := 0#16, txPort := 0#8 } .tx s.txIdx.toNat
          (fun b => { b with owner := .free })).updPort s.txPort.toNat
            (fun _ => { state := .idle, rspCode := 0x00#8, rspValue := 0#32 })))

/-- TxComplete (R214) as new registers, one buffer and one port. -/
theorem txComplete_eq (s : State) :
    txComplete s = (State.updBuf { s with txBusy := false, txIdx := 0#5, txPos := 0#16, txPort := 0#8 } .tx s.txIdx.toNat
      (fun b => { b with owner := .free })).updPort s.txPort.toNat
        (fun _ => { state := .idle, rspCode := 0x00#8, rspValue := 0#32 }) := by
  simp only [txComplete, State.setPortState_eq, State.respond_eq, State.updPort_updPort]
  rfl

theorem framerStep_does {s : State} (hbusy : s.txBusy = true) : FramerDoes s (framerStep true s) := by
  cases hb : s.buf? .tx s.txIdx.toNat with
  | none => simpa [framerStep, hbusy, hb] using .noBuffer hb
  | some b =>
    by_cases hc : b.head.toNat + s.txPos.toNat < s.cap .tx
    · obtain ⟨v, hv⟩ := State.exists_bufRead? hb hc
      rw [framerStep_of_busy hbusy hb hv]
      split
      · rw [txComplete_eq]
        exact .completes v hb
      · next hp => exact .sends v hb hp
    · have hv : s.bufRead? .tx s.txIdx.toNat (b.head.toNat + s.txPos.toNat) = none := by
        simp only [State.bufRead?, hb, hc, if_false]
      simpa [framerStep, hbusy, hb, hv] using .outside hb (Nat.not_lt.mp hc)

/-! ### Commands -/

/-- A command placed on port `s.cmdPort`. -/
inductive CommandDoes (s : State) : Out → Prop
  | responds (c : Code) (v : Word) : CommandDoes s (.next (s.respond s.cmdPort c v))
  | raises (c : Cause) : CommandDoes s (.next (s.raise s.cmdPort c))
  | touches {p : Pool} {i : Nat} {b : Buffer} {f : Buffer → Buffer} (v : Word) (hb : s.buf? p i = some b)
      (ho : b.owner = .free ∨ b.owner = .client) (hnew : (f b).owner = .free ∨ (f b).owner = .client)
      (hstep : BufferStep p (s.cap p) b (f b)) :
      CommandDoes s (.next ((s.updBuf p i f).respond s.cmdPort .ok v))
  | outside {p : Pool} {i j : Nat} {b : Buffer} (hb : s.buf? p i = some b) (hj : j < b.len.toNat)
      (hc : s.cap p ≤ b.head.toNat + j) : CommandDoes s (.fault .bufferAccess)
  | starts (hp : s.initPhase = .uninit) :
      CommandDoes s (.next (State.setPortState { s with initPhase := .disabling } s.cmdPort .initDisable))
  | holdsDeq (hk : s.cmdPort = 0) : CommandDoes s (.next (s.setPortState s.cmdPort .holdDeq))
  | takes {o : Out} (hk : s.cmdPort = 0) (h : DeqDoes s o) : CommandDoes s o
  | holdsTx {i : Nat} (hi : i < s.cfg.txPoolN) : CommandDoes s (.next (s.setPortState s.cmdPort (.holdTx i)))
  | sends {i : Nat} {o : Out} (hi : i < s.cfg.txPoolN) (hbusy : s.txBusy = false) (h : TxDoes s s.cmdPort i o) : CommandDoes s o

section Commands
variable (s : State)

theorem execAlloc_does (p : Pool) (r : Nat) : CommandDoes s (execAlloc p r s) := by
  unfold execAlloc
  split
  · exact .raises _
  next hr =>
  split
  · exact .responds ..
  next i t ht =>
  unfold State.poolAlloc? at ht
  split at ht
  · cases ht
  next i' hi =>
  cases ht
  obtain ⟨b, hb, ho⟩ := State.isFree_iff.mp (State.firstFree?_eq_some.mp hi).1
  exact .touches _ hb (.inl ho) (.inr rfl) (.allocated ho (Nat.not_lt.mp hr))

/-- A command whose buffer CheckBuf guards raises the check's fault, or its buffer is a client's (R139). -/
theorem checkBuf_cases {p : Pool} {i : Nat} {c : Instr} {onFree : Cause} (hg : guardedBuffer? c = some (p, i, onFree))
    (h : ∀ b, s.buf? p i = some b → b.owner = .client → CommandDoes s (exec c s)) : CommandDoes s (exec c s) := by
  cases hc : checkBuf s p i onFree with
  | error d =>
    rw [exec_of_checkBuf_error hg hc]
    exact .raises d
  | ok b =>
    obtain ⟨hb, ho⟩ := checkBuf_ok.mp hc
    exact h b hb ho

theorem execRelease_does (p : Pool) (i : Nat) : CommandDoes s (exec (.release p i) s) := by
  refine checkBuf_cases s rfl fun b hb ho => ?_
  rw [exec_release_of_client hb ho]
  exact .touches _ hb (.inr ho) (.inl rfl) (.released ho)

theorem execBufAdd_does (p : Pool) (i : Nat) (v : Byte) : CommandDoes s (exec (.bufAdd p i v) s) := by
  refine checkBuf_cases s rfl fun b hb ho => ?_
  by_cases h : b.head.toNat + b.len.toNat < s.cap p
  · rw [exec_bufAdd_of_room hb ho v h]
    exact .touches _ hb (.inr ho) (.inr ho) (.appended ho h)
  · rw [exec_bufAdd_of_full hb ho v (Nat.not_lt.mp h)]
    exact .raises _

theorem execBufPull_does (p : Pool) (i n : Nat) : CommandDoes s (exec (.bufPull p i n) s) := by
  refine checkBuf_cases s rfl fun b hb ho => ?_
  by_cases h : n ≤ b.len.toNat
  · rw [exec_bufPull_of_le hb ho h]
    exact .touches _ hb (.inr ho) (.inr ho) (.pulled ho h)
  · rw [exec_bufPull_of_underflow hb ho (Nat.not_le.mp h)]
    exact .raises _

theorem execBufRd_does (p : Pool) (i o : Nat) : CommandDoes s (exec (.bufRd p i o) s) := by
  refine checkBuf_cases s rfl fun b hb ho => ?_
  by_cases h : o < b.len.toNat
  · by_cases hc : b.head.toNat + o < s.cap p
    · obtain ⟨v, hv⟩ := State.exists_bufRead? hb hc
      rw [exec_bufRd_of_lt hb ho h hv]
      exact .responds ..
    · have hv : s.bufRead? p i (b.head.toNat + o) = none := by simp only [State.bufRead?, hb, hc, if_false]
      simpa only [exec, execBufRd, checkBuf_of_client hb ho, Nat.not_le.mpr h, if_false, hv] using
        .outside hb h (Nat.not_lt.mp hc)
  · rw [exec_bufRd_of_out hb ho (Nat.not_lt.mp h)]
    exact .raises _

theorem execBufInfo_does (p : Pool) (i : Nat) : CommandDoes s (exec (.bufInfo p i) s) := by
  refine checkBuf_cases s rfl fun b hb ho => ?_
  rw [exec_bufInfo_of_client hb ho]
  exact .responds ..

theorem execBufHdr_does (p : Pool) (i : Nat) : CommandDoes s (exec (.bufHdr p i) s) := by
  cases p with
  | tx => exact .raises _
  | rx =>
    refine checkBuf_cases s rfl fun b hb ho => ?_
    rw [exec_bufHdr_of_client hb ho]
    exact .responds ..

theorem execDeq_does : CommandDoes s (execDeq s) := by
  unfold execDeq
  split
  · exact .raises _
  next hk =>
  have hk : s.cmdPort = 0 := Decidable.not_not.mp hk
  split
  · rw [← hk]
    exact .holdsDeq hk
  · next hq => exact .takes hk (deqComplete_does hq)

theorem execTx_does (p : Pool) (i : Nat) : CommandDoes s (execTx p i s) := by
  unfold execTx
  split
  · exact .raises _
  split
  · exact .raises _
  next hi =>
  have hi : i < s.cfg.txPoolN := Nat.not_le.mp hi
  split
  · exact .holdsTx hi
  · next hbusy => exact .sends hi (Bool.not_eq_true _ ▸ hbusy) (txAccept_does ..)

theorem execInit_does : CommandDoes s (execInit s) := by
  unfold execInit
  split
  · exact .raises _
  next hp =>
  split
  · exact .responds ..
  · exact .starts (Decidable.not_not.mp hp)

theorem execCsrRd_does (c : Nat) : CommandDoes s (execCsrRd c s) := by
  unfold execCsrRd
  split
  · exact .raises _
  · exact .responds ..

/-- Every command does one of these (R102). -/
theorem exec_command_does {c : Instr} (h : isEvent c = false) : CommandDoes s (exec c s) := by
  cases c with
  | nop => exact .responds .ok 0#32
  | alloc p r => exact execAlloc_does s p r
  | release p i => exact execRelease_does s p i
  | bufAdd p i v => exact execBufAdd_does s p i v
  | bufPull p i n => exact execBufPull_does s p i n
  | bufRd p i o => exact execBufRd_does s p i o
  | bufInfo p i => exact execBufInfo_does s p i
  | bufHdr p i => exact execBufHdr_does s p i
  | deq => exact execDeq_does s
  | tx p i => exact execTx_does s p i
  | init => exact execInit_does s
  | csrRd c => exact execCsrRd_does s c
  | spurious | rxByte | txReady => cases h

end Commands

/-! ### The receiver -/

/-- The state with a header's last byte stored (R173): `h` is the header. -/
def State.headed (s : State) (h : HdrBuf) : State := { s with hdrBuf := h, hdrCnt := 0#2 }

/-- The length that a header declares (R91). -/
def HdrBuf.length (h : HdrBuf) : Half := le16 h.b0 h.b1

/-- The receiver's handling of a byte it has taken (R170). -/
inductive ReceiverDoes (s : State) : Out → Prop
  | counts (h : HdrBuf) (n : BitVec 2) (hst : s.rxState = .awaitHdr) : ReceiverDoes s (.next { s with hdrBuf := h, hdrCnt := n })
  | drops (h : HdrBuf) (d : Diag) (hst : s.rxState = .awaitHdr) :
      ReceiverDoes s (.next { s.headed h with diagLog := s.diagLog ++ [d] })
  | discards (h : HdrBuf) (d : Diag) {l : Half} (hst : s.rxState = .awaitHdr) (hl : l ≠ 0#16) :
      ReceiverDoes s (.next { s.headed h with diagLog := s.diagLog ++ [d], rxRemaining := l, rxState := .discard })
  | enqueues (h : HdrBuf) {i : Nat} {b : Buffer} (hst : s.rxState = .awaitHdr) (hb : s.buf? .rx i = some b)
      (ho : b.owner = .free) :
      ReceiverDoes s (.next (State.updBuf { s.headed h with q := s.q ++ [BitVec.ofNat 5 i] } .rx i
        (Buffer.addressed .queue h.b2 h.b3)))
  | starts (h : HdrBuf) {i : Nat} {b : Buffer} (hst : s.rxState = .awaitHdr) (hb : s.buf? .rx i = some b) (ho : b.owner = .free)
      (hl : h.length ≠ 0#16) (hc : h.length.toNat ≤ s.cfg.rxBufCap) :
      ReceiverDoes s (.next (State.updBuf
        { s.headed h with rxBufIdx := BitVec.ofNat 5 i, rxRemaining := h.length, rxState := .awaitPayload } .rx i
          (Buffer.addressed .receiver h.b2 h.b3)))
  | noBuffer (hst : s.rxState = .awaitPayload) (hb : s.buf? .rx s.rxBufIdx.toNat = none) :
      ReceiverDoes s (.fault .noSuchBuffer)
  | underflow (hst : s.rxState ≠ .awaitHdr) (hr : s.rxRemaining = 0#16) : ReceiverDoes s (.fault .counterUnderflow)
  | outside {b : Buffer} (hst : s.rxState = .awaitPayload) (hb : s.buf? .rx s.rxBufIdx.toNat = some b)
      (hr : 1 ≤ s.rxRemaining.toNat) (hc : s.cfg.rxBufCap ≤ b.head.toNat + b.len.toNat) :
      ReceiverDoes s (.fault .bufferAccess)
  | stores (v : Byte) {b : Buffer} (hst : s.rxState = .awaitPayload) (hb : s.buf? .rx s.rxBufIdx.toNat = some b)
      (hr : 2 ≤ s.rxRemaining.toNat) (hc : b.head.toNat + b.len.toNat < s.cfg.rxBufCap) :
      ReceiverDoes s (.next (State.updBuf { s with rxRemaining := s.rxRemaining - 1#16 } .rx s.rxBufIdx.toNat
        (Buffer.stored (b.head.toNat + b.len.toNat) v)))
  | ends (v : Byte) {b : Buffer} (hst : s.rxState = .awaitPayload) (hb : s.buf? .rx s.rxBufIdx.toNat = some b)
      (hc : b.head.toNat + b.len.toNat < s.cfg.rxBufCap) :
      ReceiverDoes s (.next (State.updBuf
        { s with rxRemaining := 0#16, rxBufIdx := 0#5, rxState := .awaitHdr, q := s.q ++ [s.rxBufIdx] } .rx s.rxBufIdx.toNat
          (fun x => { x.stored (b.head.toNat + b.len.toNat) v with owner := .queue })))
  | skips (hst : s.rxState = .discard) (hr : 2 ≤ s.rxRemaining.toNat) :
      ReceiverDoes s (.next { s with rxRemaining := s.rxRemaining - 1#16 })
  | skipsLast (hst : s.rxState = .discard) :
      ReceiverDoes s (.next { s with rxRemaining := 0#16, rxState := .awaitHdr })

section Receiver
variable (s : State)

/-- A complete header (R174), with the header's bytes stored. -/
theorem headerComplete_does (h : HdrBuf) (hst : s.rxState = .awaitHdr) :
    ReceiverDoes s (.next (headerComplete h.length h.b2 h.b3 (s.headed h))) := by
  by_cases hc : h.length.toNat ≤ s.cfg.rxBufCap
  · cases hfree : s.firstFree? .rx with
    | none =>
      rw [headerComplete_exhausted (s := s.headed h) hc (State.firstFree?_eq_none.mp hfree)]
      unfold exhausted
      split
      · have hdrop := ReceiverDoes.drops h ⟨1#8, h.length⟩ hst
        simp only [State.headed, hst] at hdrop
        exact hdrop
      · next hl => exact .discards h _ hst hl
    | some i =>
      obtain ⟨hi, -, hlow⟩ := State.firstFree?_eq_some.mp hfree
      obtain ⟨b, hb, ho⟩ := State.isFree_iff.mp hi
      by_cases hl : h.length = 0#16
      · rw [hl, headerComplete_zero (s := s.headed h) hst hb ho hlow]
        exact .enqueues h hst hb ho
      · rw [headerComplete_payload (s := s.headed h) hc hl hb ho hlow]
        exact .starts h hst hb ho hl hc
  · have hbig : s.cfg.rxBufCap < h.length.toNat := Nat.not_le.mp hc
    rw [headerComplete_oversized (s := s.headed h) hbig]
    exact .discards h _ hst fun e => by simp [e] at hbig

theorem headerByte_does (v : Byte) (hst : s.rxState = .awaitHdr) : ReceiverDoes s (.next (headerByte v s)) := by
  unfold headerByte
  dsimp only
  split
  · exact headerComplete_does s _ hst
  · exact .counts _ _ hst

theorem payloadByte_does (v : Byte) (hst : s.rxState = .awaitPayload) : ReceiverDoes s (payloadByte v s) := by
  cases hb : s.buf? .rx s.rxBufIdx.toNat with
  | none => simpa only [payloadByte, hb] using .noBuffer hst hb
  | some b =>
    by_cases hr : s.rxRemaining = 0#16
    · simpa only [payloadByte, hb, hr, if_true] using .underflow (by simp [hst]) hr
    have hpos : 1 ≤ s.rxRemaining.toNat := by
      have : s.rxRemaining.toNat ≠ 0 := fun e => hr (BitVec.eq_of_toNat_eq e)
      omega
    by_cases hc : b.head.toNat + b.len.toNat < s.cfg.rxBufCap
    · rw [payloadByte_of_room hb hpos hc]
      dsimp only
      split
      · next hz =>
        rw [payloadDone_updBuf, hz]
        exact .ends v hst hb hc
      · exact .stores v hst hb (by bv_omega) hc
    · have hw : s.bufWrite? .rx s.rxBufIdx.toNat (b.head.toNat + b.len.toNat) v = none := by
        simp only [State.bufWrite?, hb, State.cap, hc, if_false]
      simpa only [payloadByte, hb, hr, if_false, hw] using .outside hst hb hpos (Nat.not_lt.mp hc)

theorem discardByte_does (hst : s.rxState = .discard) : ReceiverDoes s (discardByte s) := by
  by_cases hr : s.rxRemaining = 0#16
  · simpa only [discardByte, hr, if_true] using .underflow (by simp [hst]) hr
  have hpos : 1 ≤ s.rxRemaining.toNat := by
    have : s.rxRemaining.toNat ≠ 0 := fun e => hr (BitVec.eq_of_toNat_eq e)
    omega
  by_cases hz : s.rxRemaining - 1#16 = 0#16
  · have hlast := ReceiverDoes.skipsLast hst
    simpa only [discardByte, hr, hz, if_true, if_false] using hlast
  · simpa only [discardByte, hr, hz, if_false] using .skips hst (by bv_omega)

theorem receiveByte_does (v : Byte) : ReceiverDoes s (receiveByte v s) := by
  unfold receiveByte
  split
  · next hst => exact headerByte_does s v hst
  · next hst => exact payloadByte_does s v hst
  · next hst => exact discardByte_does s hst

end Receiver

/-! ### Every agent -/

/-- What the agent that moves does, for every action but reset. -/
inductive Does (s : State) : Action → Out → Prop
  | refuses (a : Action) (r : Refusal) : Does s a (.refused r)
  | stays (a : Action) : Does s a (.next s)
  | command {k : Nat} {w : Word} {x : Port} {o : Out} (hx : s.port? k = some x) (hidle : x.state = .idle)
      (h : CommandDoes { s with cmdPort := k } o) : Does s (.command k w) o
  | receives {w : EventWord} {v : Byte} {rest : List Byte} {o : Out} (hen : s.rxEn = true) (hu : s.uartRx = v :: rest)
      (h : ReceiverDoes { s with uartRx := rest } o) : Does s (.event w) o
  | takes {k : Nat} {x : Port} {o : Out} (hx : s.port? k = some x) (hhold : x.state = .holdDeq) (h : DeqDoes s o) :
      Does s (.port k) o
  | accepts {k i : Nat} {x : Port} {o : Out} (hx : s.port? k = some x) (hhold : x.state = .holdTx i) (hbusy : s.txBusy = false)
      (h : TxDoes s k i o) : Does s (.port k) o
  | sends {o : Out} (hbusy : s.txBusy = true) (h : FramerDoes s o) : Does s (.framer true) o
  | fails {k : Nat} {x : Port} {y : Word} (hx : s.port? k = some x) (hwait : x.state = .initDisable) :
      Does s (.answer y) (.next (State.updPort { s with initPhase := .uninit } k
        (fun _ => { state := .idle, rspCode := 0x02#8, rspValue := y })))
  | drains {k : Nat} {x : Port} (hx : s.port? k = some x) (hwait : x.state = .initDisable) :
      Does s (.answer 0#32) (.next (State.updPort { s with uartRx := [], rxEn := true, initPhase := .enabling } k
        (fun x => { x with state := .initEnable })))
  | enables {k : Nat} {x : Port} {y : Word} (hx : s.port? k = some x) (hwait : x.state = .initEnable) :
      Does s (.answer y) (.next (State.updPort { s with initPhase := .ready } k
        (fun _ => { state := .idle, rspCode := if y = 0#32 then 0x00#8 else 0x02#8, rspValue := y })))
  | arrives (v : Byte) : Does s (.arrive v) (.next { s with uartRx := s.uartRx ++ [v] })
  | binds (b : Bool) : Does s (.bind b) (.next { s with uartBound := b })

theorem execRxByte_does (s : State) (w : EventWord) (d : Byte) : Does s (.event w) (exec (.rxByte d) s) := by
  by_cases hen : s.rxEn = true
  · cases hu : s.uartRx with
    | nil =>
      rw [exec_rxByte_of_hold (.inr hu)]
      exact .stays _
    | cons v rest =>
      rw [exec_rxByte_of_waiting hen hu]
      exact .receives hen hu (receiveByte_does _ v)
  · rw [exec_rxByte_of_hold (.inl (Bool.not_eq_true _ ▸ hen))]
    exact .stays _

theorem act_event_does (s : State) (w : EventWord) : Does s (.event w) (act (.event w) s) := by
  cases hd : decodeEvent w with
  | error e =>
    rw [act_event_of_error hd]
    exact .refuses ..
  | ok i =>
    have hevent := decodeEvent_event hd
    rw [act_event_of_decode hd]
    cases i with
    | rxByte d => exact execRxByte_does s w d
    | spurious | txReady => exact .stays _
    | nop | alloc | release | bufAdd | bufPull | bufRd | bufInfo | bufHdr | deq | tx | init | csrRd => cases hevent

theorem act_command_does (s : State) (k : Nat) (w : Word) : Does s (.command k w) (act (.command k w) s) := by
  cases hx : s.port? k with
  | none =>
    rw [act_command_of_noPort hx]
    exact .refuses ..
  | some x =>
    by_cases hidle : x.state = .idle
    · rw [act_command_of_idle hx hidle]
      split
      · next i hd => exact .command hx hidle (exec_command_does _ (decodeCommand_not_event hd))
      · exact .command hx hidle (.raises (s := { s with cmdPort := k }) _)
      · exact .command hx hidle (.raises (s := { s with cmdPort := k }) _)
      · exact .refuses ..
    · rw [act_command_of_busy hx hidle]
      exact .refuses ..

theorem portStep_does (s : State) (k : Nat) : Does s (.port k) (portStep k s) := by
  unfold portStep
  split
  · exact .refuses ..
  next x hx =>
  split
  · next hhold =>
    split
    · exact .stays _
    · next hq => exact .takes hx hhold (deqComplete_does hq)
  · next hhold =>
    split
    · exact .stays _
    · next hbusy => exact .accepts hx hhold (Bool.not_eq_true _ ▸ hbusy) (txAccept_does ..)
  all_goals exact .stays _

theorem act_framer_does (s : State) (ready : Bool) : Does s (.framer ready) (framerStep ready s) := by
  by_cases h : s.txBusy = true ∧ ready = true
  · obtain ⟨hbusy, rfl⟩ := h
    exact .sends hbusy (framerStep_does hbusy)
  · rw [framerStep_of_hold (by simpa [imp_iff_not_or] using h)]
    exact .stays _

theorem collaboratorAnswer_does (s : State) (y : Word) : Does s (.answer y) (collaboratorAnswer y s) := by
  unfold collaboratorAnswer
  split
  · exact .refuses ..
  next k hk =>
  have hk : s.portAwaits k = true := List.find?_some hk
  unfold State.portAwaits at hk
  split at hk
  · cases hk
  next x hx =>
  by_cases hd : x.state = .initDisable
  · rw [if_pos (by simp [State.portIn, hx, hd])]
    by_cases hy : y = 0#32
    · subst hy
      rw [initDisabled_zero]
      exact .drains hx hd
    · rw [initDisabled_of_ne hy]
      exact .fails hx hd
  · rw [if_neg (by simp [State.portIn, hx, hd]), initEnabled_eq]
    have he : x.state = .initEnable := by
      revert hk hd
      cases x.state <;> simp [PortState.awaitsCollaborator]
    exact .enables hx he

/-- Every action but reset does one of these (R8, R12). -/
theorem act_does {a : Action} (ha : a ≠ .reset) (s : State) : Does s a (act a s) := by
  cases a with
  | command k w => exact act_command_does s k w
  | event w => exact act_event_does s w
  | port k => exact portStep_does s k
  | framer ready => exact act_framer_does s ready
  | answer y => exact collaboratorAnswer_does s y
  | arrive v =>
    rw [act_arrive]
    by_cases h : s.uartRxFull = true
    · rw [uartArrive_of_full h]
      exact .stays _
    · rw [uartArrive_of_not_full h]
      exact .arrives v
  | bind b => exact .binds b
  | reset => exact absurd rfl ha

/-- A step that is no reset and has a next state: nothing has changed, or an action did one of these, in the state that has the rest
of the schedule. -/
theorem step_does {s t : State} (hr : s.resetNotDue) (h : step s = .next t) :
    t = s ∨ ∃ a rest, s.schedule = a :: rest ∧ a ≠ .reset ∧ Does { s with schedule := rest } a (.next t) := by
  obtain ⟨-, rfl⟩ | ⟨a, rest, hs, ha⟩ := step_next_cases h
  · exact .inl rfl
  · have hne : a ≠ .reset := fun e => hr (by rw [hs, e]; rfl)
    exact .inr ⟨a, rest, hs, hne, ha ▸ act_does hne _⟩

end Sys2Proof.Machine
end

section
/-! PROOFS. What the steps of each agent leave alone, in every state (41_receiver.md R185, R186, 42_transmit.md R213, 43_queue.md
R240, 60_exceptions.md R305), and the reads (20_memory.md R64). -/

namespace Sys2Proof.Machine

/-! ### The command side leaves the receiver -/

/-- The FAULT register, once valid, keeps its cause (R34). -/
def KeepsFault (s t : State) : Prop := s.faultValid = true → t.faultValid = true ∧ t.faultCause = s.faultCause

/-- What a step of the command side keeps: the receiver's registers, the waiting bytes, the diagnostics, and a valid FAULT
register. -/
def CommandFrame (s t : State) : Prop :=
  SameReceiver s t ∧ t.uartRx = s.uartRx ∧ t.diagLog = s.diagLog ∧ KeepsFault s t

/-- An update of the port and of other registers is in the command's frame: those that the frame names are the state's own. -/
theorem commandFrame_refl (s : State) : CommandFrame s s :=
  ⟨⟨rfl, rfl, rfl, rfl, rfl, rfl⟩, rfl, rfl, fun hv => ⟨hv, rfl⟩⟩

theorem commandFrame_raise (s : State) (k : Nat) (c : Cause) : CommandFrame s (s.raise k c) := by
  simp +contextual [CommandFrame, SameReceiver, KeepsFault, State.raise]

section CommandSide
variable {s t : State}

theorem DeqDoes.commandFrame (h : DeqDoes s (.next t)) : CommandFrame s t := by
  cases h with
  | takes => exact commandFrame_refl s

theorem TxDoes.commandFrame {k i : Nat} (h : TxDoes s k i (.next t)) : CommandFrame s t := by
  cases h with
  | faults c => exact commandFrame_raise (s.setPortState k .idle) k c
  | accepts => exact commandFrame_refl s

theorem FramerDoes.commandFrame (h : FramerDoes s (.next t)) : CommandFrame s t := by
  cases h with
  | sends | completes => exact commandFrame_refl s

theorem CommandDoes.commandFrame (h : CommandDoes s (.next t)) : CommandFrame s t := by
  cases h with
  | responds | starts | holdsDeq | holdsTx => exact commandFrame_refl s
  | raises c => exact commandFrame_raise s s.cmdPort c
  | touches => simp [CommandFrame, SameReceiver, KeepsFault]
  | takes _ h => exact h.commandFrame
  | sends _ _ h => exact h.commandFrame

end CommandSide

/-- Settles O50: each command's outcome, and that of each later step of its port or of the framer, keeps the receiver's side; of
INIT's answers only the zero answer to `disable()` does not. -/
theorem commandsLeaveTheReceiverAlone : Obligations.CommandsLeaveTheReceiverAlone := by
  intro s t
  have keeps (h : CommandFrame s t) : SameReceiver s t ∧ t.uartRx = s.uartRx ∧ t.diagLog = s.diagLog :=
    ⟨h.1, h.2.1, h.2.2.1⟩
  refine ⟨fun c hc h => ?_, fun a ha h => ?_, fun y h => ?_⟩
  · have hdoes := exec_command_does s hc
    rw [h] at hdoes
    exact keeps hdoes.commandFrame
  · have hdoes := act_does (by rintro rfl; simp at ha) s (a := a)
    rw [h] at hdoes
    cases hdoes with
    | stays => exact keeps (commandFrame_refl _)
    | command _ _ h => exact keeps (h.commandFrame : CommandFrame { s with cmdPort := _ } t)
    | takes _ _ h => exact keeps h.commandFrame
    | accepts _ _ _ h => exact keeps h.commandFrame
    | sends _ h => exact keeps h.commandFrame
    | receives | fails | drains | enables | arrives | binds => simp at ha
  · have hdoes := act_does (a := .answer y) (by simp) s
    rw [h] at hdoes
    cases hdoes with
    | stays => exact ⟨rfl, .inl ⟨⟨rfl, rfl, rfl, rfl, rfl, rfl⟩, rfl⟩⟩
    | fails => exact ⟨rfl, .inl ⟨⟨rfl, rfl, rfl, rfl, rfl, rfl⟩, rfl⟩⟩
    | enables => exact ⟨rfl, .inl ⟨⟨rfl, rfl, rfl, rfl, rfl, rfl⟩, rfl⟩⟩
    | drains hx hwait => exact ⟨rfl, .inr ⟨rfl, ⟨_, _, hx, hwait⟩, rfl, rfl, rfl, rfl, rfl, rfl, rfl⟩⟩

/-! ### The receiver leaves the command side -/

/-- What an event keeps: the ports, the framer, INIT's phase, the FAULT register, the wire and the transmit buffers. -/
def EventFrame (s t : State) : Prop :=
  SamePorts s t ∧ SameFramer s t ∧ t.initPhase = s.initPhase ∧ SameFault s t ∧ t.uartTx = s.uartTx ∧
    ∀ i, t.buf? .tx i = s.buf? .tx i

/-- An update of the receive pool and of the receiver's registers is in the event's frame. -/
theorem eventFrame_refl (s : State) : EventFrame s s :=
  ⟨fun _ => rfl, ⟨rfl, rfl, rfl, rfl⟩, rfl, ⟨rfl, rfl⟩, rfl, fun _ => rfl⟩

theorem ReceiverDoes.eventFrame {s t : State} (h : ReceiverDoes s (.next t)) : EventFrame s t := by
  cases h with
  | counts | drops | discards | enqueues | starts | stores | ends | skips | skipsLast => exact eventFrame_refl s

/-- Settles O51: what the receiver does with the byte it takes is in the frame, and the other events do nothing. -/
theorem eventsLeaveTheCommandSideAlone : Obligations.EventsLeaveTheCommandSideAlone := by
  intro c s t hc h
  cases c with
  | rxByte d =>
    have hdoes := execRxByte_does s 0 d
    rw [h] at hdoes
    cases hdoes with
    | stays => exact eventFrame_refl _
    | receives _ _ h => exact (h.eventFrame : EventFrame { s with uartRx := _ } t)
  | spurious | txReady =>
    cases h
    exact eventFrame_refl _
  | nop | alloc | release | bufAdd | bufPull | bufRd | bufInfo | bufHdr | deq | tx | init | csrRd => cases hc

/-! ### What is said of every step -/

theorem Does.keepsFault {s t : State} {a : Action} (h : Does s a (.next t)) : KeepsFault s t := by
  cases h with
  | stays | fails | drains | enables | arrives | binds => exact fun hv => ⟨hv, rfl⟩
  | command _ _ h => exact h.commandFrame.2.2.2
  | receives _ _ h =>
    obtain ⟨-, -, -, ⟨hv, hc⟩, -⟩ := h.eventFrame
    exact fun h => ⟨hv.trans h, hc⟩
  | takes _ _ h => exact h.commandFrame.2.2.2
  | accepts _ _ _ h => exact h.commandFrame.2.2.2
  | sends _ h => exact h.commandFrame.2.2.2

/-- Settles O52: each agent keeps a valid FAULT register. -/
theorem firstFaultStaysUntilReset : Obligations.FirstFaultStaysUntilReset := by
  intro s t hr h hv
  obtain rfl | ⟨a, rest, -, -, hdoes⟩ := step_does hr h
  · exact ⟨hv, rfl⟩
  · exact hdoes.keepsFault hv

/-- The FIFO is as it was, has one entry more at its tail, or has lost its head, which port 0 answers. -/
def FifoStep (s t : State) : Prop :=
  t.q = s.q ∨ (∃ x, t.q = s.q ++ [x]) ∨
    ∃ i, s.q = i :: t.q ∧ ∃ x, t.port? 0 = some x ∧ x.rspCode = 0x00#8 ∧ x.rspValue.toNat = i.toNat

section Fifo
variable {s t : State} (hs : s.Shaped)
include hs

theorem State.Shaped.exists_port {k : Nat} (hk : k < s.cfg.nCmdPorts) : ∃ x, s.port? k = some x := by
  obtain ⟨-, -, -, hn⟩ := hs
  exact State.exists_port hk hn

theorem DeqDoes.fifoStep (h : DeqDoes s (.next t)) : FifoStep s t := by
  cases h with
  | @takes i rest b hq hb =>
    have hk : 0 < s.cfg.nCmdPorts := by
      obtain ⟨⟨-, -, -, -, ⟨h1, -⟩, -⟩, -⟩ := hs
      exact h1
    obtain ⟨x, hx⟩ := hs.exists_port hk
    refine .inr (.inr ⟨i, hq, { state := .idle, rspCode := 0x00#8, rspValue := i.setWidth 32 }, ?_, rfl, toNat_answer i⟩)
    rw [State.port?_updPort, if_pos rfl, State.port?_updBuf]
    exact Option.map_eq_some_iff.mpr ⟨x, hx, rfl⟩

theorem Does.fifoStep {a : Action} (h : Does s a (.next t)) : FifoStep s t := by
  cases h with
  | stays | fails | drains | enables | arrives | binds => exact .inl rfl
  | @command k _ _ _ _ _ h =>
    cases h with
    | responds | starts | holdsDeq | holdsTx => exact .inl rfl
    | raises c => exact .inl (by simp [State.raise])
    | touches => exact .inl (by simp)
    | takes _ h => exact DeqDoes.fifoStep (s := { s with cmdPort := k }) hs h
    | sends _ _ h =>
      cases h with
      | faults => exact .inl (by simp [txFault, State.raise])
      | accepts => exact .inl rfl
  | receives _ _ h =>
    cases h with
    | counts | drops | discards | starts | stores | skips | skipsLast => exact .inl rfl
    | enqueues | ends => exact .inr (.inl ⟨_, rfl⟩)
  | takes _ _ h => exact h.fifoStep hs
  | accepts _ _ _ h =>
    cases h with
    | faults => exact .inl (by simp [txFault, State.raise])
    | accepts => exact .inl rfl
  | sends _ h =>
    cases h with
    | sends | completes => exact .inl rfl

end Fifo

/-- Settles O56: each agent's step is a FIFO's step. -/
theorem fifoOnlyPushesAndPops : Obligations.FifoOnlyPushesAndPops := by
  intro s t hs hr h
  obtain rfl | ⟨a, rest, -, -, hdoes⟩ := step_does hr h
  · exact .inl rfl
  · exact Does.fifoStep (s := { s with schedule := rest }) hs hdoes

theorem Does.diagLog {s t : State} {a : Action} (h : Does s a (.next t)) :
    t.diagLog = s.diagLog ∨ ∃ x, t.diagLog = s.diagLog ++ [x] := by
  cases h with
  | stays | fails | drains | enables | arrives | binds => exact .inl rfl
  | command _ _ h => exact .inl h.commandFrame.2.2.1
  | receives _ _ h =>
    cases h with
    | counts | enqueues | starts | stores | ends | skips | skipsLast => exact .inl rfl
    | drops | discards => exact .inr ⟨_, rfl⟩
  | takes _ _ h => exact .inl h.commandFrame.2.2.1
  | accepts _ _ _ h => exact .inl h.commandFrame.2.2.1
  | sends _ h => exact .inl h.commandFrame.2.2.1

theorem TxDoes.uartTx {s t : State} {k i : Nat} (h : TxDoes s k i (.next t)) : t.uartTx = s.uartTx := by
  cases h with
  | faults => simp [txFault, State.raise]
  | accepts => rfl

theorem DeqDoes.uartTx {s t : State} (h : DeqDoes s (.next t)) : t.uartTx = s.uartTx := by
  cases h with
  | takes => rfl

theorem Does.uartTx {s t : State} {a : Action} (h : Does s a (.next t)) :
    t.uartTx = s.uartTx ∨ (a = .framer true ∧ ∃ v, t.uartTx = s.uartTx ++ [v]) := by
  cases h with
  | stays | fails | drains | enables | arrives | binds => exact .inl rfl
  | command _ _ h =>
    cases h with
    | responds | starts | holdsDeq | holdsTx => exact .inl rfl
    | raises c => exact .inl (by simp [State.raise])
    | touches => exact .inl (by simp)
    | takes _ h => exact .inl h.uartTx
    | sends _ _ h => exact .inl h.uartTx
  | receives _ _ h =>
    obtain ⟨-, -, -, -, htx, -⟩ := h.eventFrame
    exact .inl htx
  | takes _ _ h => exact .inl h.uartTx
  | accepts _ _ _ h => exact .inl h.uartTx
  | sends _ h =>
    cases h with
    | sends v | completes v => exact .inr ⟨rfl, v, rfl⟩

/-- Settles O57: only the receiver writes a diagnostic, and only a ready framer the wire, one each. -/
theorem outputsAreAppendOnly : Obligations.OutputsAreAppendOnly := by
  intro s t hr h
  obtain rfl | ⟨a, rest, hs, -, hdoes⟩ := step_does hr h
  · exact ⟨.inl rfl, .inl rfl⟩
  · refine ⟨hdoes.diagLog, hdoes.uartTx.imp_right fun ⟨ha, hv⟩ => ⟨?_, hv⟩⟩
    rw [hs, ha, List.head?_cons]

/-- Settles O59: reset makes as many buffers and ports as the parameters say, and no other step changes the sizes. -/
theorem parametersAndBuffersAreFixed : Obligations.ParametersAndBuffersAreFixed := by
  rintro s t ⟨-, hrx, htx, hports⟩ h
  have fixed (h : t.sizes = s.sizes) : t.cfg = s.cfg ∧ t.rxPool.length = s.rxPool.length ∧
      t.txPool.length = s.txPool.length ∧ t.ports.length = s.ports.length := by
    simpa [State.sizes] using h
  obtain ⟨-, rfl⟩ | ⟨a, rest, -, ha⟩ := step_next_cases h
  · exact fixed rfl
  by_cases hr : a = .reset
  · subst hr
    rw [act_reset] at ha
    cases ha
    simp [blockReset, State.fresh, hrx, htx, hports]
  · exact fixed (act_keepsSizes hr { s with schedule := rest } t ha)

/-! ### Reads -/

/-- The command gives a next state only by answering OK or by a fault, and again in that state it gives that state. -/
def ReadsTwice (c : Instr) (s : State) : Prop :=
  ∀ t, exec c s = .next t →
    ((∃ v, OnlyResponded s t s.cmdPort 0x00#8 v) ∨ ∃ cause, Faulted s t s.cmdPort cause) ∧ exec c t = .next t

theorem State.respond_respond (s : State) (k : Nat) (c : Code) (v : Word) : (s.respond k c v).respond k c v = s.respond k c v :=
  State.updPort_updPort ..

/-- The same fault on the same port again changes nothing: the first cause stays (R305). -/
theorem State.raise_raise (s : State) (k : Nat) (c : Cause) : (s.raise k c).raise k c = s.raise k c := by
  have hport (u : State) (f : Port → Port) : (u.recordFault c).updPort k f = (u.updPort k f).recordFault c := by
    unfold State.recordFault
    split
    · next h => exact (if_pos h).symm
    · next h => exact (if_neg h).symm
  have hfault (u : State) : (u.recordFault c).recordFault c = u.recordFault c := if_pos (State.recordFault_faultValid u c)
  simp only [State.raise, State.setResponse_eq, hport, State.updPort_updPort, hfault]

theorem readsTwice_of_respond {c : Instr} {s : State} {v : Word} (h : exec c s = .next (s.respond s.cmdPort .ok v))
    (hagain : exec c (s.respond s.cmdPort .ok v) = .next ((s.respond s.cmdPort .ok v).respond s.cmdPort .ok v)) :
    ReadsTwice c s := by
  intro t ht
  obtain rfl := Host.Outcome.next.inj (h.symm.trans ht)
  exact ⟨.inl ⟨v, respond_frame s s.cmdPort .ok v⟩, by rw [hagain, State.respond_respond]⟩

theorem readsTwice_of_raise {c : Instr} {s : State} {d : Cause} (h : exec c s = .next (s.raise s.cmdPort d))
    (hagain : exec c (s.raise s.cmdPort d) = .next ((s.raise s.cmdPort d).raise s.cmdPort d)) : ReadsTwice c s := by
  intro t ht
  obtain rfl := Host.Outcome.next.inj (h.symm.trans ht)
  exact ⟨.inr ⟨d, raise_frame s s.cmdPort d⟩, by rw [hagain, State.raise_raise]⟩

@[simp] theorem State.buf?_raise (s : State) (k : Nat) (d : Cause) (p : Pool) (i : Nat) :
    (s.raise k d).buf? p i = s.buf? p i := by simp [State.raise]

@[simp] theorem State.cmdPort_raise (s : State) (k : Nat) (d : Cause) : (s.raise k d).cmdPort = s.cmdPort := by
  simp [State.raise]

/-- A command that CheckBuf guards reads twice if it does so of a client's buffer: a failed check fails again. -/
theorem readsTwice_of_guarded {c : Instr} {s : State} {p : Pool} {i : Nat} {onFree : Cause}
    (hg : guardedBuffer? c = some (p, i, onFree))
    (h : ∀ b, s.buf? p i = some b → b.owner = .client → ReadsTwice c s) : ReadsTwice c s := by
  cases hc : checkBuf s p i onFree with
  | ok b =>
    obtain ⟨hb, ho⟩ := checkBuf_ok.mp hc
    exact h b hb ho
  | error d =>
    have hc' : checkBuf (s.raise s.cmdPort d) p i onFree = .error d := by simpa only [checkBuf, State.buf?_raise] using hc
    refine readsTwice_of_raise (exec_of_checkBuf_error hg hc) ?_
    simpa using exec_of_checkBuf_error hg hc'

/-- A response changes no CSR. -/
theorem State.csr?_updPort (s : State) (k : Nat) (f : Port → Port) (c : Nat) : (s.updPort k f).csr? c = s.csr? c := by
  have hbits (p : Pool) : ∀ n, (s.updPort k f).freeMapBits p n = s.freeMapBits p n := by
    intro n
    induction n with
    | zero => rfl
    | succ n ih =>
      simp only [State.freeMapBits, ih, State.isFree, State.buf?_updPort]
  have hmap (p : Pool) : (s.updPort k f).freeMap p = s.freeMap p := hbits p 32
  unfold State.csr?
  simp only [hmap]
  rfl

theorem csrRd_readsTwice (s : State) (n : Nat) : ReadsTwice (.csrRd n) s := by
  cases hn : s.csr? n with
  | none =>
    have hagain : (s.raise s.cmdPort .illegalCsr).csr? n = none := by
      have h := s.csr?_isSome n
      rw [hn, ← (s.raise s.cmdPort .illegalCsr).csr?_isSome] at h
      exact Option.not_isSome_iff_eq_none.mp (by simp [← h])
    exact readsTwice_of_raise (d := .illegalCsr) (by simp only [exec, execCsrRd, hn])
      (by simp only [exec, execCsrRd, hagain, State.cmdPort_raise])
  | some v =>
    have hagain : (s.respond s.cmdPort .ok v).csr? n = some v := (s.csr?_updPort ..).trans hn
    exact readsTwice_of_respond (v := v) (by simp only [exec, execCsrRd, hn]) (by simp only [exec, execCsrRd, hagain]; rfl)

theorem bufRd_readsTwice (s : State) (p : Pool) (i o : Nat) : ReadsTwice (.bufRd p i o) s := by
  refine readsTwice_of_guarded rfl fun b hb ho => ?_
  by_cases h : o < b.len.toNat
  · cases hv : s.bufRead? p i (b.head.toNat + o) with
    | none =>
      intro t ht
      simp only [exec, execBufRd, checkBuf_of_client hb ho, Nat.not_le.mpr h, if_false, hv, reduceCtorEq] at ht
    | some v =>
      refine readsTwice_of_respond (exec_bufRd_of_lt hb ho h hv) ?_
      exact exec_bufRd_of_lt (s := s.respond s.cmdPort .ok _) (by simpa using hb) ho h (by simpa using hv)
  · have h := Nat.not_lt.mp h
    refine readsTwice_of_raise (exec_bufRd_of_out hb ho h) ?_
    simpa using exec_bufRd_of_out (s := s.raise s.cmdPort _) (by simpa using hb) ho h

theorem bufInfo_readsTwice (s : State) (p : Pool) (i : Nat) : ReadsTwice (.bufInfo p i) s := by
  refine readsTwice_of_guarded rfl fun b hb ho => readsTwice_of_respond (exec_bufInfo_of_client hb ho) ?_
  exact exec_bufInfo_of_client (s := s.respond s.cmdPort .ok _) (by simpa using hb) ho

theorem bufHdr_readsTwice (s : State) (p : Pool) (i : Nat) : ReadsTwice (.bufHdr p i) s := by
  cases p with
  | tx => exact readsTwice_of_raise (d := .wrongPool) rfl (by simp [exec, execBufHdr])
  | rx =>
    refine readsTwice_of_guarded rfl fun b hb ho => readsTwice_of_respond (exec_bufHdr_of_client hb ho) ?_
    exact exec_bufHdr_of_client (s := s.respond s.cmdPort .ok _) (by simpa using hb) ho

/-- Settles O58: each read command's answer or fault is the same in the state that it leaves. -/
theorem readsAreIdempotent : Obligations.ReadsAreIdempotent := by
  intro c s
  suffices h : readsOnly c = true → ReadsTwice c s from fun t hc ht => h hc t ht
  intro hc
  cases c with
  | csrRd n => exact csrRd_readsTwice s n
  | bufRd p i o => exact bufRd_readsTwice s p i o
  | bufInfo p i => exact bufInfo_readsTwice s p i
  | bufHdr p i => exact bufHdr_readsTwice s p i
  | nop | alloc | release | bufAdd | bufPull | deq | tx | init | spurious | rxByte | txReady => cases hc

end Sys2Proof.Machine
end

section
/-! PROOFS. The invariant (10_state.md R54 to R58) as what it says of each buffer, each port and the registers, so that a step's proof
is one about the one buffer and the one port that it changes. -/

namespace Sys2Proof.Machine

/-! ### Of every buffer, of every port -/

/-- Every buffer of the pool has the property. -/
def State.AllBufs (s : State) (p : Pool) (φ : Nat → Buffer → Prop) : Prop := ∀ i b, s.buf? p i = some b → φ i b

/-- Every port has the property. -/
def State.AllPorts (s : State) (φ : Nat → Port → Prop) : Prop := ∀ k x, s.port? k = some x → φ k x

theorem State.allBufs_iff {s : State} {p : Pool} {φ : Nat → Buffer → Prop} : s.allBufs p φ ↔ s.AllBufs p φ :=
  ⟨fun h i b hb => h i (State.lt_of_buf? hb) b hb, fun h i _ b hb => h i b hb⟩

theorem State.allPorts_iff {s : State} {φ : Nat → Port → Prop} : s.allPorts φ ↔ s.AllPorts φ :=
  ⟨fun h k x hx => h k (State.lt_of_port? hx) x hx, fun h k _ x hx => h k x hx⟩

section Quantifiers
variable {s u : State} {p : Pool} {i k : Nat} {φ ψ : Nat → Buffer → Prop} {χ ξ : Nat → Port → Prop}

theorem State.AllBufs.mono (h : s.AllBufs p φ) (hi : ∀ j b, s.buf? p j = some b → φ j b → ψ j b) : s.AllBufs p ψ :=
  fun j b hb => hi j b hb (h j b hb)

/-- After an update of one buffer, registers aside: what held of the others gives the new, and what held of it. -/
theorem State.AllBufs.updBuf {f : Buffer → Buffer} (h : s.AllBufs p φ) (hu : ∀ j, u.buf? p j = s.buf? p j)
    (hother : ∀ j b, j ≠ i → s.buf? p j = some b → φ j b → ψ j b)
    (hnew : ∀ b, s.buf? p i = some b → φ i b → ψ i (f b)) : (u.updBuf p i f).AllBufs p ψ := by
  intro j c hc
  rw [State.buf?_updBuf, hu, hu] at hc
  split at hc
  · next e =>
    obtain ⟨b, hb, rfl⟩ := Option.map_eq_some_iff.mp hc
    rw [e.2]
    exact hnew b hb (h i b hb)
  · next e => exact hother j c (fun he => e ⟨rfl, he⟩) hc (h j c hc)

theorem State.AllPorts.mono (h : s.AllPorts χ) (hi : ∀ j x, s.port? j = some x → χ j x → ξ j x) : s.AllPorts ξ :=
  fun j x hx => hi j x hx (h j x hx)

theorem State.AllPorts.updPort {f : Port → Port} (h : s.AllPorts χ) (hu : ∀ j, u.port? j = s.port? j)
    (hother : ∀ j x, j ≠ k → s.port? j = some x → χ j x → ξ j x)
    (hnew : ∀ x, s.port? k = some x → χ k x → ξ k (f x)) : (u.updPort k f).AllPorts ξ := by
  intro j y hy
  rw [State.port?_updPort, hu, hu] at hy
  split at hy
  · next e =>
    obtain ⟨x, hx, rfl⟩ := Option.map_eq_some_iff.mp hy
    rw [e]
    exact hnew x hx (h k x hx)
  · next e => exact hother j y e hy (h j y hy)

end Quantifiers

/-! ### A buffer by itself -/

/-- What R57, R60 and D9 say of a buffer by itself: the used region lies in it and has been written, its bytes are in canonical
form and lie in it. -/
structure Buffer.Sound (cap : Nat) (b : Buffer) : Prop where
  fits : b.head.toNat + b.len.toNat ≤ cap
  canonical : b.data.wf
  inside : ∀ c ∈ b.data, c.1 < cap
  written : ∀ j < b.len.toNat, (b.data.read (b.head.toNat + j)).isSome = true

theorem Memory.writes_wf (vs : List Byte) : ∀ {m : Memory} {j : Nat}, m.wf → (m.writes j vs).wf := by
  induction vs with
  | nil => exact fun h => h
  | cons v vs ih => exact fun h => ih (Memory.write_wf _ _ _ h)

theorem Memory.mem_writes (vs : List Byte) : ∀ {m : Memory} {j : Nat} {c : Host.Cell}, c ∈ m.writes j vs →
    c ∈ m ∨ (j ≤ c.1 ∧ c.1 < j + vs.length) := by
  induction vs with
  | nil => exact fun h => .inl h
  | cons v vs ih =>
    intro m j c h
    obtain h | h := ih h
    · obtain rfl | h := Memory.mem_write _ _ _ _ h
      · exact .inr ⟨Nat.le_refl _, by simp⟩
      · exact .inl h
    · exact .inr ⟨by omega, by simp; omega⟩

/-- Each byte of successive writes reads back, and no other has changed. -/
theorem Memory.read_writes (vs : List Byte) : ∀ {m : Memory} {j a : Nat}, m.wf →
    (m.writes j vs).read a = if j ≤ a ∧ a < j + vs.length then vs[a - j]? else m.read a := by
  induction vs with
  | nil =>
    intro m j a _
    rw [if_neg (by simp)]
    rfl
  | cons v vs ih =>
    intro m j a h
    rw [Memory.writes, ih (Memory.write_wf _ _ _ h), Memory.read_write _ _ _ _ h, List.length_cons]
    obtain hlt | rfl | hgt := Nat.lt_trichotomy a j
    · rw [if_neg (by omega), if_neg (by omega), if_neg (by omega)]
    · rw [if_neg (by omega), if_pos rfl, if_pos (by omega), Nat.sub_self]
      rfl
    · have hsub : a - j = a - (j + 1) + 1 := by omega
      by_cases hin : a < j + 1 + vs.length
      · rw [if_pos (by omega), if_pos (by omega), hsub, List.getElem?_cons_succ]
      · rw [if_neg (by omega), if_neg (by omega), if_neg (by omega)]

section Sound
variable {cap : Nat} {b : Buffer}

theorem Buffer.Sound.setOwner (h : b.Sound cap) (o : Owner) : Buffer.Sound cap { b with owner := o } :=
  ⟨h.fits, h.canonical, h.inside, h.written⟩

/-- An empty used region within the capacity. -/
theorem Buffer.Sound.emptied (h : b.Sound cap) {b' : Buffer} (hdata : b'.data = b.data) (hlen : b'.len = 0#16)
    (hhead : b'.head.toNat ≤ cap) : b'.Sound cap := by
  refine ⟨by simpa [hlen] using hhead, hdata ▸ h.canonical, hdata ▸ h.inside, fun j hj => ?_⟩
  rw [hlen] at hj
  exact absurd hj (Nat.not_lt_zero j)

theorem Buffer.Sound.stored (h : b.Sound cap) (hcap : cap ≤ 65535) (hroom : b.head.toNat + b.len.toNat < cap) (v : Byte) :
    (b.stored (b.head.toNat + b.len.toNat) v).Sound cap := by
  have hlen : (b.len + 1#16).toNat = b.len.toNat + 1 := by bv_omega
  refine ⟨?_, Memory.write_wf _ _ _ h.canonical, fun c hc => ?_, fun j hj => ?_⟩
  · simp only [Buffer.stored, hlen]
    omega
  · obtain rfl | hc := Memory.mem_write _ _ _ _ hc
    · exact hroom
    · exact h.inside c hc
  · simp only [Buffer.stored, hlen] at hj ⊢
    rw [Memory.read_write _ _ _ _ h.canonical]
    split
    · rfl
    · exact h.written j (by omega)

theorem Buffer.Sound.pulled (h : b.Sound cap) (hcap : cap ≤ 65535) {n : Nat} (hn : n ≤ b.len.toNat) : (b.pulled n).Sound cap := by
  have hfits := h.fits
  have hnat : (BitVec.ofNat 16 n).toNat = n := Nat.mod_eq_of_lt (by omega)
  have hhead : (b.head + BitVec.ofNat 16 n).toNat = b.head.toNat + n := by bv_omega
  have hlen : (b.len - BitVec.ofNat 16 n).toNat = b.len.toNat - n := by bv_omega
  refine ⟨?_, h.canonical, h.inside, fun j hj => ?_⟩
  · simp only [Buffer.pulled, hhead, hlen]
    omega
  · simp only [Buffer.pulled, hhead, hlen] at hj ⊢
    rw [Nat.add_assoc]
    exact h.written (n + j) (by omega)

theorem Buffer.toNat_framed (h : b.Sound cap) (hcap : cap ≤ 65535) (hh : 4 ≤ b.head.toNat) :
    b.framed.head.toNat = b.head.toNat - 4 ∧ b.framed.len.toNat = b.len.toNat + 4 := by
  have hfits := h.fits
  exact ⟨by simp only [Buffer.framed]; bv_omega, by simp only [Buffer.framed]; bv_omega⟩

theorem Buffer.Sound.framed (h : b.Sound cap) (hcap : cap ≤ 65535) (hh : 4 ≤ b.head.toNat) : b.framed.Sound cap := by
  obtain ⟨hhead, hlen⟩ := Buffer.toNat_framed h hcap hh
  have hfits := h.fits
  have hbytes : (headerBytes b.len 0#8 0#8).length = 4 := rfl
  refine ⟨by omega, Memory.writes_wf _ h.canonical, fun c hc => ?_, fun j hj => ?_⟩
  · obtain hc | hc := Memory.mem_writes _ hc
    · exact h.inside c hc
    · omega
  · rw [hhead]
    rw [hlen] at hj
    rw [show b.framed.data = b.data.writes (b.head.toNat - 4) (headerBytes b.len 0#8 0#8) from rfl,
      Memory.read_writes _ h.canonical]
    split
    · rw [List.getElem?_eq_getElem (by omega)]
      rfl
    · have hj' : b.head.toNat - 4 + j = b.head.toNat + (j - 4) := by omega
      rw [hj']
      exact h.written (j - 4) (by omega)

/-- Nothing that a step does to a buffer makes it unsound. -/
theorem BufferStep.sound {p : Pool} {b' : Buffer} (hs : BufferStep p cap b b') (hcap : cap ≤ 65535) (h : b.Sound cap) :
    b'.Sound cap := by
  cases hs with
  | kept => exact h
  | @allocated r _ hr =>
    have hhead : (BitVec.ofNat 16 r).toNat = r := Nat.mod_eq_of_lt (by omega)
    exact h.emptied rfl rfl (hhead.trans_le hr)
  | released | taken | sent => exact h.setOwner _
  | appended _ hroom => exact h.stored hcap hroom _
  | pulled _ hn => exact h.pulled hcap hn
  | addressed => exact h.emptied rfl rfl (Nat.zero_le _)
  | stored _ _ hroom => exact (h.stored hcap hroom _).setOwner _
  | framed _ _ hh => exact h.framed hcap hh

end Sound

end Sys2Proof.Machine
end

section
/-! PROOFS. The roles that the registers give the buffers and the ports (10_state.md R54 to R57), and the invariant as soundness of
every buffer with these roles. -/

namespace Sys2Proof.Machine

/-! ### Receive buffers -/

/-- The registers that a receive buffer's role depends on. -/
structure RxView where
  q : List (BitVec 5)
  st : RxState
  idx : BitVec 5
  remaining : Half
  declared : Half
  cap : Nat

def State.rxView (s : State) : RxView :=
  ⟨s.q, s.rxState, s.rxBufIdx, s.rxRemaining, le16 s.hdrBuf.b0 s.hdrBuf.b1, s.cfg.rxBufCap⟩

/-- Buffer `i` is the one being filled. -/
def RxView.Fills (v : RxView) (i : Nat) : Prop := v.st = .awaitPayload ∧ v.idx.toNat = i

/-- What R54, R55 and R57 say of receive buffer `i`. -/
structure RxRole (v : RxView) (i : Nat) (b : Buffer) : Prop where
  queued : b.owner = .queue ↔ BitVec.ofNat 5 i ∈ v.q
  filled : b.owner = .receiver ↔ v.Fills i
  notSent : b.owner ≠ .transmitter
  filling : v.Fills i → b.head = 0#16 ∧ b.len.toNat + v.remaining.toNat = v.declared.toNat ∧ v.declared.toNat ≤ v.cap

/-- The owner is no agent of the block. -/
def Owner.Idle (o : Owner) : Prop := o = .free ∨ o = .client

section RxRole
variable {v v' : RxView} {i : Nat} {b b' : Buffer}

/-- A buffer that no agent owns is in neither role. -/
theorem RxRole.of_idle (h : RxRole v i b) (ho : b.owner.Idle) : BitVec.ofNat 5 i ∉ v.q ∧ ¬v.Fills i := by
  rw [← h.queued, ← h.filled]
  obtain ho | ho := ho <;> simp [ho]

theorem RxRole.mk_idle (ho : b.owner.Idle) (hq : BitVec.ofNat 5 i ∉ v.q) (hf : ¬v.Fills i) : RxRole v i b := by
  obtain ho | ho := ho <;> exact ⟨by simp [ho, hq], by simp [ho, hf], by simp [ho], fun h => absurd h hf⟩

theorem RxRole.mk_queue (ho : b.owner = .queue) (hq : BitVec.ofNat 5 i ∈ v.q) (hf : ¬v.Fills i) : RxRole v i b :=
  ⟨by simp [ho, hq], by simp [ho, hf], by simp [ho], fun h => absurd h hf⟩

/-- A command's change of a buffer between FREE and CLIENT leaves its role. -/
theorem RxRole.idle (h : RxRole v i b) (ho : b.owner.Idle) (hnew : b'.owner.Idle) : RxRole v i b' :=
  RxRole.mk_idle hnew (h.of_idle ho).1 (h.of_idle ho).2

/-- A buffer that is not being filled depends on the FIFO only. -/
theorem RxRole.other (h : RxRole v i b) (hq : BitVec.ofNat 5 i ∈ v'.q ↔ BitVec.ofNat 5 i ∈ v.q) (hf : ¬v.Fills i)
    (hf' : ¬v'.Fills i) : RxRole v' i b :=
  ⟨by rw [h.queued, hq], by simp only [h.filled, hf, hf'], h.notSent, fun h => absurd h hf'⟩

end RxRole

/-! ### Transmit buffers -/

/-- The registers that a transmit buffer's role depends on. -/
structure TxView where
  busy : Bool
  idx : BitVec 5
  pos : Half

def State.txView (s : State) : TxView := ⟨s.txBusy, s.txIdx, s.txPos⟩

/-- Buffer `i` is the one being sent. -/
def TxView.Sends (v : TxView) (i : Nat) : Prop := v.busy = true ∧ v.idx.toNat = i

/-- What R55 and R56 say of transmit buffer `i`. -/
structure TxRole (v : TxView) (i : Nat) (b : Buffer) : Prop where
  notFilled : b.owner ≠ .receiver
  notQueued : b.owner ≠ .queue
  sent : b.owner = .transmitter ↔ v.Sends i
  sending : v.Sends i → 4 ≤ b.len.toNat ∧ v.pos.toNat + 1 ≤ b.len.toNat

section TxRole
variable {v v' : TxView} {i : Nat} {b b' : Buffer}

theorem TxRole.of_idle (h : TxRole v i b) (ho : b.owner.Idle) : ¬v.Sends i := by
  rw [← h.sent]
  obtain ho | ho := ho <;> simp [ho]

theorem TxRole.mk_idle (ho : b.owner.Idle) (hs : ¬v.Sends i) : TxRole v i b := by
  obtain ho | ho := ho <;> exact ⟨by simp [ho], by simp [ho], by simp [ho, hs], fun h => absurd h hs⟩

theorem TxRole.idle (h : TxRole v i b) (ho : b.owner.Idle) (hnew : b'.owner.Idle) : TxRole v i b' :=
  TxRole.mk_idle hnew (h.of_idle ho)

theorem TxRole.other (h : TxRole v i b) (hs : ¬v.Sends i) (hs' : ¬v'.Sends i) : TxRole v' i b :=
  ⟨h.notFilled, h.notQueued, by simp only [h.sent, hs, hs'], fun h => absurd h hs'⟩

end TxRole

/-! ### Ports -/

/-- The registers that a port's role depends on. -/
structure PortView where
  busy : Bool
  txPort : BitVec 8
  txPoolN : Nat

def State.portView (s : State) : PortView := ⟨s.txBusy, s.txPort, s.cfg.txPoolN⟩

/-- What R56, R210 and R241 say of port `k` in the given state. -/
structure PortRole (v : PortView) (k : Nat) (x : PortState) : Prop where
  waits : x = .txWait ↔ v.busy = true ∧ v.txPort.toNat = k
  holdsDeq : x = .holdDeq → k = 0
  holdsTx : ∀ i ∈ x.heldTx?, i < v.txPoolN

/-- A port that does not wait for the framer, before and after. -/
theorem PortRole.change {v : PortView} {k : Nat} {x y : PortState} (h : PortRole v k x) (hx : x ≠ .txWait) (hy : y ≠ .txWait)
    (hd : y = .holdDeq → k = 0) (ht : ∀ i ∈ y.heldTx?, i < v.txPoolN) : PortRole v k y :=
  ⟨by simp only [hy, ← h.waits, hx], hd, ht⟩

/-- What R261 to R264 say of port `k` in the given state: it waits for the collaborator exactly if it is the caller, in the phase
of the call. -/
structure CallRole (phase : InitPhase) (caller : Option Nat) (k : Nat) (x : PortState) : Prop where
  disables : x = .initDisable ↔ phase = .disabling ∧ caller = some k
  enables : x = .initEnable ↔ phase = .enabling ∧ caller = some k

/-- A port that does not wait for the collaborator, before and after. -/
theorem CallRole.change {phase : InitPhase} {caller : Option Nat} {k : Nat} {x y : PortState} (h : CallRole phase caller k x)
    (hx : x.awaitsCollaborator = false) (hy : y.awaitsCollaborator = false) : CallRole phase caller k y := by
  have hstate : ∀ z : PortState, z.awaitsCollaborator = false → z ≠ .initDisable ∧ z ≠ .initEnable := by
    intro z hz
    constructor <;> rintro rfl <;> cases hz
  constructor
  · simp only [(hstate y hy).1, ← h.disables, (hstate x hx).1]
  · simp only [(hstate y hy).2, ← h.enables, (hstate x hx).2]

/-- There is a caller in the phases of a call, and every port has its role. -/
def State.CallAgrees (s : State) : Prop :=
  ∃ caller, s.AllPorts (fun k x => CallRole s.initPhase caller k x.state) ∧
    (s.initPhase = .disabling ∨ s.initPhase = .enabling → ∃ k x, caller = some k ∧ s.port? k = some x)

/-! ### Registers -/

/-- The FIFO's entries are distinct and name receive buffers (R54). -/
def State.QueueRegs (s : State) : Prop := s.q.Nodup ∧ ∀ x ∈ s.q, x.toNat < s.cfg.rxPoolN

/-- The receiver's registers (R21 to R26, R55, R57). -/
def State.ReceiverRegs (s : State) : Prop :=
  (s.rxState = .awaitPayload → s.rxBufIdx.toNat < s.cfg.rxPoolN) ∧ (s.rxState ≠ .awaitHdr → 1 ≤ s.rxRemaining.toNat) ∧
    (s.rxState = .awaitHdr → s.rxRemaining = 0#16) ∧ (s.rxState ≠ .awaitHdr → s.hdrCnt = 0#2) ∧
    (s.rxState ≠ .awaitPayload → s.rxBufIdx = 0#5) ∧ (s.rxEn = false → s.rxState = .awaitHdr ∧ s.hdrCnt = 0#2)

/-- The framer's registers (R31, R56). -/
def State.FramerRegs (s : State) : Prop :=
  (s.txBusy = true → s.txIdx.toNat < s.cfg.txPoolN ∧ s.txPort.toNat < s.cfg.nCmdPorts) ∧
    (s.txBusy = false → s.txIdx = 0#5 ∧ s.txPos = 0#16 ∧ s.txPort = 0#8)

/-- The receiver is enabled once INIT has passed `disable()` (R263). -/
def State.EnabledAgrees (s : State) : Prop := s.rxEn = true ↔ s.initPhase = .enabling ∨ s.initPhase = .ready

/-- What the registers say of the buffers, the ports and each other. -/
structure State.Agrees (s : State) : Prop where
  rx : s.AllBufs .rx (RxRole s.rxView)
  tx : s.AllBufs .tx (TxRole s.txView)
  ports : s.AllPorts (fun k x => PortRole s.portView k x.state)
  call : s.CallAgrees
  queue : s.QueueRegs
  receiver : s.ReceiverRegs
  framer : s.FramerRegs
  enabled : s.EnabledAgrees

/-- Every buffer by itself is sound. -/
def State.Sound (s : State) : Prop := ∀ p, s.AllBufs p (fun _ b => b.Sound (s.cap p))

/-! ### The invariant -/

theorem PortState.awaitsCollaborator_iff {x : PortState} : x.awaitsCollaborator = true ↔ x = .initDisable ∨ x = .initEnable := by
  cases x <;> simp [PortState.awaitsCollaborator]

/-- INIT's agreement is that of one caller with the ports. -/
theorem State.callAgrees_iff {s : State} :
    s.InitAgrees ↔ s.EnabledAgrees ∧ (s.rxEn = false → s.rxState = .awaitHdr ∧ s.hdrCnt = 0#2) ∧ s.CallAgrees := by
  constructor
  · intro h
    have hcall {k : Nat} {x : Port} (hx : s.port? k = some x) := State.calling?_eq h hx
    obtain ⟨hen, hoff, hphase, -, hsome⟩ := h
    refine ⟨hen, hoff, s.calling?, fun k x hx => ?_, fun hp => ?_⟩
    · obtain ⟨hd, he⟩ := State.allPorts_iff.mp hphase k x hx
      have hwaits (hc : s.calling? = some k) : x.state.awaitsCollaborator = true := by
        have hk : s.portAwaits k = true := List.find?_some hc
        simpa only [State.portAwaits, hx] using hk
      refine ⟨⟨fun hs => ⟨hd hs, hcall hx (by rw [hs]; rfl)⟩, fun ⟨hp, hc⟩ => ?_⟩,
        ⟨fun hs => ⟨he hs, hcall hx (by rw [hs]; rfl)⟩, fun ⟨hp, hc⟩ => ?_⟩⟩
      · exact (PortState.awaitsCollaborator_iff.mp (hwaits hc)).resolve_right fun e => by simp [hp] at he; exact he e
      · exact (PortState.awaitsCollaborator_iff.mp (hwaits hc)).resolve_left fun e => by simp [hp] at hd; exact hd e
    · obtain ⟨k, hk⟩ := Option.isSome_iff_exists.mp (hsome hp)
      have hw : s.portAwaits k = true := List.find?_some hk
      unfold State.portAwaits at hw
      split at hw
      · cases hw
      · next x hx => exact ⟨k, x, hk, hx⟩
  · rintro ⟨hen, hoff, caller, hports, hsome⟩
    have hcaller {k : Nat} {x : Port} (hx : s.port? k = some x) (hw : x.state.awaitsCollaborator = true) : caller = some k := by
      obtain hs | hs := PortState.awaitsCollaborator_iff.mp hw
      · exact ((hports k x hx).disables.mp hs).2
      · exact ((hports k x hx).enables.mp hs).2
    refine ⟨hen, hoff, State.allPorts_iff.mpr fun k x hx => ?_, State.allPorts_iff.mpr fun k x hx =>
      State.allPorts_iff.mpr fun k' x' hx' ⟨hw, hw'⟩ => ?_, fun hp => ?_⟩
    · exact ⟨fun hs => ((hports k x hx).disables.mp hs).1, fun hs => ((hports k x hx).enables.mp hs).1⟩
    · exact Option.some.inj ((hcaller hx hw).symm.trans (hcaller hx' hw'))
    · obtain ⟨k, x, hc, hx⟩ := hsome hp
      have hw : x.state.awaitsCollaborator = true := by
        obtain hp | hp := hp
        · rw [(hports k x hx).disables.mpr ⟨hp, hc⟩]; rfl
        · rw [(hports k x hx).enables.mpr ⟨hp, hc⟩]; rfl
      simp only [State.calling?, List.find?_isSome, List.mem_range]
      exact ⟨k, State.lt_of_port? hx, by simpa only [State.portAwaits, hx] using hw⟩

/-- The invariant is the shape, the soundness of every buffer, and the agreement of the registers. -/
theorem State.inv_iff {s : State} : s.Inv ↔ s.Shaped ∧ s.Sound ∧ s.Agrees := by
  constructor
  · rintro ⟨hshaped, ⟨hnodup, hlt, hq⟩, ⟨hr, hrlt, htr⟩, ⟨ht, htlt, htlen, hwait⟩, ⟨hfr, hft, hfill, hrem⟩,
      ⟨hrest, hcnt, hidx, hfr0⟩, hinit, ⟨hdeq, htx⟩, ⟨hmr, hmt⟩, ⟨hwr, hwt⟩⟩
    obtain ⟨hen, hoff, hcall⟩ := State.callAgrees_iff.mp hinit
    simp only [State.allBufs_iff, State.allPorts_iff] at *
    refine ⟨hshaped, fun p i b hb => ?_, fun i b hb => ?_, fun i b hb => ?_, fun k x hx => ?_, hcall, ⟨hnodup, hlt⟩,
      ⟨hrlt, hrem, hrest, hcnt, hidx, hoff⟩, ⟨htlt, hfr0⟩, hen⟩
    · cases p with
      | rx => exact ⟨hfr i b hb, (hmr i b hb).1, (hmr i b hb).2, hwr i b hb⟩
      | tx => exact ⟨hft i b hb, (hmt i b hb).1, (hmt i b hb).2, hwt i b hb⟩
    · exact ⟨hq i b hb, (hr i b hb).1, (hr i b hb).2, hfill i b hb⟩
    · exact ⟨(htr i b hb).1, (htr i b hb).2, ht i b hb, htlen i b hb⟩
    · exact ⟨hwait k x hx, hdeq k x hx, htx k x hx⟩
  · rintro ⟨hshaped, hsound, hrx, htx, hports, hcall, ⟨hnodup, hlt⟩, ⟨hrlt, hrem, hrest, hcnt, hidx, hoff⟩, ⟨htlt, hfr0⟩, hen⟩
    have hsr := hsound .rx
    have hst := hsound .tx
    constructor
    · exact hshaped
    · exact ⟨hnodup, hlt, State.allBufs_iff.mpr (hrx.mono fun _ _ _ h => h.queued)⟩
    · exact ⟨State.allBufs_iff.mpr (hrx.mono fun _ _ _ h => ⟨h.filled, h.notSent⟩), hrlt,
        State.allBufs_iff.mpr (htx.mono fun _ _ _ h => ⟨h.notFilled, h.notQueued⟩)⟩
    · exact ⟨State.allBufs_iff.mpr (htx.mono fun _ _ _ h => h.sent), htlt,
        State.allBufs_iff.mpr (htx.mono fun _ _ _ h => h.sending), State.allPorts_iff.mpr (hports.mono fun _ _ _ h => h.waits)⟩
    · exact ⟨State.allBufs_iff.mpr (hsr.mono fun _ _ _ h => h.fits), State.allBufs_iff.mpr (hst.mono fun _ _ _ h => h.fits),
        State.allBufs_iff.mpr (hrx.mono fun _ _ _ h => h.filling), hrem⟩
    · exact ⟨hrest, hcnt, hidx, hfr0⟩
    · exact State.callAgrees_iff.mpr ⟨hen, hoff, hcall⟩
    · exact ⟨State.allPorts_iff.mpr (hports.mono fun _ _ _ h => h.holdsDeq),
        State.allPorts_iff.mpr (hports.mono fun _ _ _ h => h.holdsTx)⟩
    · exact ⟨State.allBufs_iff.mpr (hsr.mono fun _ _ _ h => ⟨h.canonical, h.inside⟩),
        State.allBufs_iff.mpr (hst.mono fun _ _ _ h => ⟨h.canonical, h.inside⟩)⟩
    · exact ⟨State.allBufs_iff.mpr (hsr.mono fun _ _ _ h => h.written), State.allBufs_iff.mpr (hst.mono fun _ _ _ h => h.written)⟩

end Sys2Proof.Machine
end

section
/-! PROOFS. The registers' agreement (10_state.md R54 to R57) is kept by every step of every agent. -/

namespace Sys2Proof.Machine

/-! ### Changes of a port -/

theorem State.exists_port?_updPort {s : State} {k j : Nat} {f : Port → Port} {x : Port} (hx : s.port? j = some x) :
    ∃ y, (s.updPort k f).port? j = some y := by
  rw [State.port?_updPort]
  split
  · next e =>
    subst e
    exact ⟨f x, Option.map_eq_some_iff.mpr ⟨x, hx, rfl⟩⟩
  · exact ⟨x, hx⟩

/-- A port that does not wait for the collaborator, before and after, leaves the caller. -/
theorem State.CallAgrees.updPort {s u : State} (h : s.CallAgrees) (hu : ∀ j, u.port? j = s.port? j)
    (hphase : u.initPhase = s.initPhase) {k : Nat} {f : Port → Port}
    (hf : ∀ x, s.port? k = some x → (f x).state = x.state ∨
      (x.state.awaitsCollaborator = false ∧ (f x).state.awaitsCollaborator = false)) : (u.updPort k f).CallAgrees := by
  obtain ⟨caller, hports, hsome⟩ := h
  rw [← hphase] at hports hsome
  refine ⟨caller, hports.updPort hu (fun _ _ _ _ hr => hr) (fun x hx hr => ?_), fun hp => ?_⟩
  · obtain he | ⟨hx', hy⟩ := hf x hx
    · rw [he]; exact hr
    · exact hr.change hx' hy
  · obtain ⟨j, x, hc, hx⟩ := hsome hp
    obtain ⟨y, hy⟩ := State.exists_port?_updPort ((hu j).trans hx)
    exact ⟨j, y, hc, hy⟩

/-- A change of a port's state that no other register answers to: nothing, or between states in which the port waits for no agent,
a held DEQ being on port 0 and a held TX of a buffer that exists. -/
def PortStep (n k : Nat) (x y : PortState) : Prop :=
  y = x ∨ ((x ≠ .txWait ∧ x.awaitsCollaborator = false) ∧ (y ≠ .txWait ∧ y.awaitsCollaborator = false) ∧
    (y = .holdDeq → k = 0) ∧ ∀ i ∈ y.heldTx?, i < n)

namespace State.Agrees
variable {s : State} (h : s.Agrees)
include h

theorem updPort {k : Nat} {f : Port → Port} (hf : ∀ x, s.port? k = some x → PortStep s.cfg.txPoolN k x.state (f x).state) :
    (s.updPort k f).Agrees where
  rx := h.rx
  tx := h.tx
  ports := h.ports.updPort (fun _ => rfl) (fun _ _ _ _ hr => hr) fun x hx hr => by
    obtain he | ⟨⟨hx', -⟩, ⟨hy, -⟩, hd, ht⟩ := hf x hx
    · rw [he]; exact hr
    · exact hr.change hx' hy hd ht
  call := h.call.updPort (fun _ => rfl) rfl fun x hx => (hf x hx).imp_right fun ⟨⟨_, hx'⟩, ⟨_, hy⟩, _⟩ => ⟨hx', hy⟩
  queue := h.queue
  receiver := h.receiver
  framer := h.framer
  enabled := h.enabled

theorem setResponse {k : Nat} {c : BitVec 8} {v : Word} : (s.setResponse k c v).Agrees := h.updPort fun _ _ => .inl rfl

theorem respond {k : Nat} {c : Code} {v : Word} : (s.respond k c v).Agrees := h.setResponse

theorem recordFault {c : Cause} : (s.recordFault c).Agrees := by
  unfold State.recordFault
  split
  · exact h
  · exact ⟨h.rx, h.tx, h.ports, h.call, h.queue, h.receiver, h.framer, h.enabled⟩

theorem raise {k : Nat} {c : Cause} : (s.raise k c).Agrees := h.setResponse.recordFault

/-- A buffer that no agent of the block owns, before and after. -/
theorem updBuf {p : Pool} {i : Nat} {f : Buffer → Buffer}
    (hf : ∀ b, s.buf? p i = some b → b.owner.Idle ∧ (f b).owner.Idle) : (s.updBuf p i f).Agrees := by
  cases p with
  | rx => exact ⟨h.rx.updBuf (fun _ => rfl) (fun _ _ _ _ hr => hr) fun b hb hr => hr.idle (hf b hb).1 (hf b hb).2,
      h.tx, h.ports, h.call, h.queue, h.receiver, h.framer, h.enabled⟩
  | tx => exact ⟨h.rx, h.tx.updBuf (fun _ => rfl) (fun _ _ _ _ hr => hr) fun b hb hr => hr.idle (hf b hb).1 (hf b hb).2,
      h.ports, h.call, h.queue, h.receiver, h.framer, h.enabled⟩

end State.Agrees

/-! ### Indices -/

/-- A buffer's index is the number of the register that holds it (R6: at most 32 buffers). -/
theorem ofNat_eq_iff {i : Nat} (hi : i < 32) {x : BitVec 5} : BitVec.ofNat 5 i = x ↔ i = x.toNat := by
  constructor
  · rintro rfl
    exact (Nat.mod_eq_of_lt hi).symm
  · rintro rfl
    exact BitVec.ofNat_toNat .. |>.trans (BitVec.setWidth_eq ..)

theorem State.Shaped.lt_32 {s : State} (hs : s.Shaped) {p : Pool} {i : Nat} {b : Buffer} (hb : s.buf? p i = some b) : i < 32 :=
  Nat.lt_of_lt_of_le (State.lt_of_buf? hb) (hs.poolN_le p)

section Steps
variable {s t : State} (hs : s.Shaped) (hsound : s.Sound) (h : s.Agrees)

/-! ### DEQ -/

include hs h in
theorem DeqDoes.agrees (hport : ∀ x, s.port? 0 = some x → x.state = .idle ∨ x.state = .holdDeq) (hd : DeqDoes s (.next t)) :
    t.Agrees := by
  cases hd with
  | @takes i rest b hq hb =>
    have hqueue := h.queue
    rw [State.QueueRegs, hq, List.nodup_cons] at hqueue
    obtain ⟨⟨hnot, hnodup⟩, hlt⟩ := hqueue
    have hrx : (State.updBuf { s with q := rest } .rx i.toNat (fun b => { b with owner := .client })).AllBufs .rx
        (RxRole { s.rxView with q := rest }) := by
      refine h.rx.updBuf (fun _ => rfl) (fun j c hj hc hr => ?_) fun c hc hr => ?_
      · have hne : BitVec.ofNat 5 j ≠ i := fun e => hj ((ofNat_eq_iff (hs.lt_32 hc)).mp e)
        have hmem : BitVec.ofNat 5 j ∈ rest ↔ BitVec.ofNat 5 j ∈ s.q := by simp [hq, hne]
        exact ⟨by rw [hr.queued]; exact hmem.symm, hr.filled, hr.notSent, hr.filling⟩
      · have hi : BitVec.ofNat 5 i.toNat = i := (ofNat_eq_iff (hs.lt_32 hc)).mpr rfl
        have ho : c.owner = .queue := hr.queued.mpr (by rw [hi]; simp [State.rxView, hq])
        refine RxRole.mk_idle (.inr rfl) (by rw [hi]; exact hnot) fun hf => ?_
        rw [hr.filled.mpr hf] at ho
        cases ho
    have hagrees : (State.updBuf { s with q := rest } .rx i.toNat (fun b => { b with owner := .client })).Agrees :=
      ⟨hrx, h.tx, h.ports, h.call, ⟨hnodup, fun x hx => hlt x (List.mem_cons_of_mem _ hx)⟩, h.receiver, h.framer, h.enabled⟩
    refine hagrees.updPort fun x hx => .inr ?_
    obtain hx | hx := hport x hx <;> simp [hx, PortState.awaitsCollaborator, PortState.heldTx?]

/-! ### The framer -/

include hs hsound h in
theorem TxDoes.agrees {k i : Nat} {x : Port} (hbusy : s.txBusy = false) (hx : s.port? k = some x)
    (hstate : x.state ≠ .txWait ∧ x.state.awaitsCollaborator = false) (hd : TxDoes s k i (.next t)) : t.Agrees := by
  cases hd with
  | faults c =>
    have hidle : (s.setPortState k .idle).Agrees := h.updPort fun y hy => .inr (by
      obtain rfl := Option.some.inj (hx.symm.trans hy)
      simpa [PortState.awaitsCollaborator, PortState.heldTx?] using hstate)
    exact hidle.raise
  | @accepts b hb ho hh =>
    have hk := State.lt_of_port? hx
    have hports : s.cfg.nCmdPorts ≤ 255 := by
      obtain ⟨⟨-, -, -, -, ⟨-, hports⟩, -⟩, -⟩ := hs
      exact hports
    have hi := State.lt_of_buf? hb
    have hidx : (BitVec.ofNat 5 i).toNat = i := Nat.mod_eq_of_lt (hs.lt_32 hb)
    have hport : (BitVec.ofNat 8 k).toNat = k := Nat.mod_eq_of_lt (by omega)
    have hnone (j : Nat) : ¬s.txView.Sends j := fun hj => by simp [TxView.Sends, State.txView, hbusy] at hj
    have htx : ((s.sending k i).updBuf .tx i Buffer.framed).AllBufs .tx (TxRole (s.sending k i).txView) := by
      refine h.tx.updBuf (fun _ => rfl) (fun j c hj hc hr => hr.other (hnone j) fun hj' => ?_)
        fun c hc hr => ?_
      · exact hj (hj'.2.symm.trans hidx)
      · obtain rfl := Option.some.inj (hb.symm.trans hc)
        obtain ⟨-, hlen⟩ := Buffer.toNat_framed (hsound .tx i b hb) (hs.cap_le .tx) hh
        refine ⟨nofun, nofun, ⟨fun _ => ⟨rfl, hidx⟩, fun _ => rfl⟩, fun _ => ?_⟩
        rw [hlen]
        exact ⟨Nat.le_add_left .., Nat.le_add_left 1 (b.len.toNat + 3)⟩
    refine ⟨h.rx, htx, ?_, ?_, h.queue, h.receiver, ⟨fun _ => ?_, nofun⟩, h.enabled⟩
    · refine h.ports.updPort (fun _ => rfl) (fun j y hj hy hr => ?_)
        fun y hy hr => ?_
      · have hnot : y.state ≠ .txWait := fun e => by simpa [State.portView, hbusy] using hr.waits.mp e
        exact ⟨⟨fun e => absurd e hnot, fun e => absurd (e.2.symm.trans hport) hj⟩, hr.holdsDeq, hr.holdsTx⟩
      · exact ⟨⟨fun _ => ⟨rfl, hport⟩, fun _ => rfl⟩, nofun, nofun⟩
    · refine h.call.updPort (fun _ => rfl) rfl fun y hy => .inr ⟨?_, rfl⟩
      obtain rfl := Option.some.inj (hx.symm.trans hy)
      exact hstate.2
    · exact ⟨hidx.symm ▸ hi, hport.symm ▸ hk⟩

include h in
theorem FramerDoes.agrees (hbusy : s.txBusy = true) (hd : FramerDoes s (.next t)) : t.Agrees := by
  cases hd with
  | @sends b v hb hp =>
    refine ⟨h.rx, h.tx.mono fun j c hc hr => ⟨hr.notFilled, hr.notQueued, hr.sent, fun hj => ?_⟩, h.ports, h.call, h.queue,
      h.receiver, ⟨h.framer.1, fun hn => by simp [hbusy] at hn⟩, h.enabled⟩
    obtain ⟨h4, hpos⟩ := hr.sending hj
    obtain rfl : b = c := Option.some.inj (hb.symm.trans (hj.2 ▸ hc))
    refine ⟨h4, ?_⟩
    change (s.txPos + 1#16).toNat + 1 ≤ b.len.toNat
    change s.txPos.toNat + 1 ≤ b.len.toNat at hpos
    bv_omega
  | @completes b v hb =>
    refine ⟨h.rx, ?_, ?_, ?_, h.queue, h.receiver, ⟨nofun, fun _ => ⟨rfl, rfl, rfl⟩⟩, h.enabled⟩
    · refine h.tx.updBuf (fun _ => rfl) (fun j c hj _ hr => hr.other (fun e => hj e.2.symm) nofun) fun c _ _ => ?_
      exact TxRole.mk_idle (.inl rfl) nofun
    · refine h.ports.updPort (fun _ => rfl) (fun j y hj _ hr => ?_) fun y _ hr => ⟨⟨nofun, nofun⟩, nofun, nofun⟩
      have hnot : y.state ≠ .txWait := fun e => hj (hr.waits.mp e).2.symm
      exact ⟨⟨fun e => absurd e hnot, nofun⟩, hr.holdsDeq, hr.holdsTx⟩
    · refine h.call.updPort (fun _ => rfl) rfl fun y hy => .inr ⟨?_, rfl⟩
      have hwait : y.state = .txWait := (h.ports s.txPort.toNat y hy).waits.mpr ⟨hbusy, rfl⟩
      rw [hwait]
      rfl

/-! ### The receiver -/

theorem RxView.not_fills {v : RxView} (hst : v.st ≠ .awaitPayload) (i : Nat) : ¬v.Fills i := fun hf => hst hf.1

include h in
/-- No buffer is being filled, before and after, and the FIFO is the same. -/
theorem State.Agrees.rx_unfilled {v : RxView} (hst : s.rxState ≠ .awaitPayload) (hq : v.q = s.q) (hv : v.st ≠ .awaitPayload) :
    s.AllBufs .rx (RxRole v) :=
  h.rx.mono fun _ _ _ hr => hr.other (by rw [hq]; rfl) (RxView.not_fills hst _) (RxView.not_fills hv _)

include hs h in
/-- The buffer at the FIFO's new tail, which was the only one that may have been being filled, is queued; then none is. -/
theorem State.Agrees.rx_enqueued {u : State} {v : RxView} {x : BitVec 5} {f : Buffer → Buffer} (hu : ∀ j, u.buf? .rx j = s.buf? .rx j)
    (hfills : ∀ j, j ≠ x.toNat → ¬s.rxView.Fills j) (hq : v.q = s.q ++ [x]) (hv : v.st ≠ .awaitPayload)
    (hf : ∀ b, (f b).owner = .queue) : (u.updBuf .rx x.toNat f).AllBufs .rx (RxRole v) := by
  refine h.rx.updBuf hu (fun j c hj hc hr => hr.other ?_ (hfills j hj) (RxView.not_fills hv j))
    fun c hc _ => RxRole.mk_queue (hf c) ?_ (RxView.not_fills hv _)
  · have hne : BitVec.ofNat 5 j ≠ x := fun e => hj ((ofNat_eq_iff (hs.lt_32 hc)).mp e)
    simp [hq, hne, State.rxView]
  · rw [(ofNat_eq_iff (hs.lt_32 hc)).mpr rfl, hq]
    simp

include hs h in
/-- A buffer that is not queued may be enqueued (R54). -/
theorem State.Agrees.queue_enqueued {x : BitVec 5} {b : Buffer} (hb : s.buf? .rx x.toNat = some b) (ho : b.owner ≠ .queue) :
    (s.q ++ [x]).Nodup ∧ ∀ y ∈ s.q ++ [x], y.toNat < s.cfg.rxPoolN := by
  obtain ⟨hnodup, hlt⟩ := h.queue
  have hnot : x ∉ s.q := by
    have hr := (h.rx x.toNat b hb).queued.not.mp ho
    rwa [(ofNat_eq_iff (hs.lt_32 hb)).mpr rfl] at hr
  refine ⟨List.nodup_append.mpr ⟨hnodup, List.nodup_singleton x, ?_⟩, fun y hy => ?_⟩
  · rintro a ha _ hx rfl
    rw [List.mem_singleton.mp hx] at ha
    exact hnot ha
  · obtain hy | hy := List.mem_append.mp hy
    · exact hlt y hy
    · rw [List.mem_singleton.mp hy]
      exact State.lt_of_buf? hb

include hs h in
theorem ReceiverDoes.agrees (hen : s.rxEn = true) (hd : ReceiverDoes s (.next t)) : t.Agrees := by
  obtain ⟨hfill, hrem, hrest, hcnt, hidx, -⟩ := h.receiver
  have hoff {q : Prop} : s.rxEn = false → q := fun e => by simp [hen] at e
  have hone : ∀ {n : Half}, 2 ≤ n.toNat → 1 ≤ (n - 1#16).toNat := fun hn => by bv_omega
  cases hd with
  | counts hdr n hst =>
    exact ⟨h.rx_unfilled (by simp [hst]) rfl (by simp [State.rxView, hst]), h.tx, h.ports, h.call, h.queue,
      ⟨hfill, hrem, hrest, fun e => absurd hst e, hidx, hoff⟩, h.framer, h.enabled⟩
  | drops hdr d hst =>
    exact ⟨h.rx_unfilled (by simp [hst]) rfl (by simp [State.rxView, State.headed, hst]), h.tx, h.ports, h.call, h.queue,
      ⟨hfill, hrem, hrest, fun e => absurd hst e, hidx, hoff⟩, h.framer, h.enabled⟩
  | @discards hdr d l hst hl =>
    have hpos : 1 ≤ l.toNat := Nat.one_le_iff_ne_zero.mpr fun e => hl (BitVec.eq_of_toNat_eq e)
    exact ⟨h.rx_unfilled (by simp [hst]) rfl (by simp [State.rxView]), h.tx, h.ports, h.call, h.queue,
      ⟨nofun, fun _ => hpos, nofun, fun _ => rfl, fun _ => hidx (by simp [hst]), hoff⟩, h.framer, h.enabled⟩
  | @enqueues hdr i b hst hb ho =>
    have hi : (BitVec.ofNat 5 i).toNat = i := Nat.mod_eq_of_lt (hs.lt_32 hb)
    have hrx := h.rx_enqueued hs (u := { s.headed hdr with q := s.q ++ [BitVec.ofNat 5 i] })
      (v := State.rxView { s.headed hdr with q := s.q ++ [BitVec.ofNat 5 i] }) (f := Buffer.addressed .queue hdr.b2 hdr.b3)
      (fun _ => rfl) (fun j _ => RxView.not_fills (by simp [State.rxView, hst]) j) rfl
      (by simp [State.rxView, State.headed, hst]) (fun _ => rfl)
    have hqueue := h.queue_enqueued hs (x := BitVec.ofNat 5 i) (by rw [hi]; exact hb) (by simp [ho])
    rw [hi] at hrx
    exact ⟨hrx, h.tx, h.ports, h.call, hqueue, ⟨hfill, hrem, hrest, fun e => absurd hst e, hidx, hoff⟩, h.framer, h.enabled⟩
  | @starts hdr i b hst hb ho hl hc =>
    have hi : (BitVec.ofNat 5 i).toNat = i := Nat.mod_eq_of_lt (hs.lt_32 hb)
    have hpos : 1 ≤ hdr.length.toNat := Nat.one_le_iff_ne_zero.mpr fun e => hl (BitVec.eq_of_toNat_eq e)
    have hnone (j : Nat) : ¬s.rxView.Fills j := RxView.not_fills (by simp [State.rxView, hst]) j
    refine ⟨h.rx.updBuf (fun _ => rfl) (fun j c hj _ hr => hr.other Iff.rfl (hnone j) fun hf => hj (hf.2.symm.trans hi))
      fun c hc' hr => ?_, h.tx, h.ports, h.call, h.queue, ⟨fun _ => ?_, fun _ => hpos, nofun, fun _ => rfl, nofun, hoff⟩,
      h.framer, h.enabled⟩
    · obtain rfl := Option.some.inj (hb.symm.trans hc')
      have hnot : BitVec.ofNat 5 i ∉ s.q := (hr.of_idle (.inl ho)).1
      refine ⟨⟨nofun, fun e => absurd e hnot⟩, ⟨fun _ => ⟨rfl, hi⟩, fun _ => rfl⟩, nofun, fun _ => ⟨rfl, ?_, hc⟩⟩
      exact Nat.zero_add _
    · exact hi.symm ▸ State.lt_of_buf? hb
  | @stores v b hst hb hr hc =>
    refine ⟨h.rx.updBuf (fun _ => rfl) (fun j c hj _ hr => hr.other Iff.rfl (fun e => hj e.2.symm) (fun e => hj e.2.symm))
      fun c hc' hrole => ?_, h.tx, h.ports, h.call, h.queue, ⟨hfill, fun _ => hone hr, fun e => ?_, hcnt, hidx, hoff⟩,
      h.framer, h.enabled⟩
    · obtain rfl := Option.some.inj (hb.symm.trans hc')
      refine ⟨hrole.queued, hrole.filled, hrole.notSent, fun hf => ?_⟩
      obtain ⟨hhead, hsum, hcap⟩ := hrole.filling hf
      refine ⟨hhead, ?_, hcap⟩
      have hcap' := hs.cap_le .rx
      change b.len.toNat + s.rxRemaining.toNat = (le16 s.hdrBuf.b0 s.hdrBuf.b1).toNat at hsum
      change (b.len + 1#16).toNat + (s.rxRemaining - 1#16).toNat = (le16 s.hdrBuf.b0 s.hdrBuf.b1).toNat
      change s.cfg.rxBufCap ≤ 65535 at hcap'
      bv_omega
    · simp [hst] at e
  | @ends v b hst hb hc =>
    have ho : b.owner = .receiver := (h.rx _ b hb).filled.mpr ⟨hst, rfl⟩
    refine ⟨h.rx_enqueued hs (fun _ => rfl) (fun j hj e => hj e.2.symm) rfl (by simp [State.rxView]) fun _ => rfl, h.tx, h.ports,
      h.call, h.queue_enqueued hs hb (by simp [ho]), ⟨nofun, fun e => absurd rfl e, fun _ => rfl, fun e => absurd rfl e,
      fun _ => rfl, hoff⟩, h.framer, h.enabled⟩
  | skips hst hr =>
    exact ⟨h.rx_unfilled (by simp [hst]) rfl (by simp [State.rxView, hst]), h.tx, h.ports, h.call, h.queue,
      ⟨hfill, fun _ => hone hr, fun e => by simp [hst] at e, hcnt, hidx, hoff⟩, h.framer, h.enabled⟩
  | skipsLast hst =>
    exact ⟨h.rx_unfilled (by simp [hst]) rfl (by simp [State.rxView]), h.tx, h.ports, h.call, h.queue,
      ⟨nofun, fun e => absurd rfl e, fun _ => rfl, fun e => absurd rfl e, fun _ => hidx (by simp [hst]), hoff⟩, h.framer,
      h.enabled⟩

/-! ### INIT -/

include h in
/-- A phase of no call: no port waits for the collaborator. -/
theorem State.Agrees.awaits_eq_false (hp : s.initPhase ≠ .disabling) (hp' : s.initPhase ≠ .enabling) {k : Nat} {x : Port}
    (hx : s.port? k = some x) : x.state.awaitsCollaborator = false := by
  obtain ⟨caller, hports, -⟩ := h.call
  rw [← Bool.not_eq_true, PortState.awaitsCollaborator_iff]
  rintro (e | e)
  · exact hp ((hports k x hx).disables.mp e).1
  · exact hp' ((hports k x hx).enables.mp e).1

include h in
/-- In a phase of a call only the caller waits: the port that does is the caller. -/
theorem State.Agrees.call_of_awaits {k : Nat} {x : Port} (hx : s.port? k = some x) (hw : x.state.awaitsCollaborator = true)
    {phase : InitPhase} {caller : Option Nat} {j : Nat} {y : Port} (hj : j ≠ k) (hy : s.port? j = some y)
    (hcaller : caller = some k ∨ caller = none) : CallRole phase caller j y.state := by
  obtain ⟨caller', hports, -⟩ := h.call
  have hk : caller' = some k := by
    obtain e | e := PortState.awaitsCollaborator_iff.mp hw
    · exact ((hports k x hx).disables.mp e).2
    · exact ((hports k x hx).enables.mp e).2
  have hne : caller' ≠ some j := fun e => hj (Option.some.inj (e.symm.trans hk))
  have hne' : caller ≠ some j := by
    obtain rfl | rfl := hcaller
    · exact fun e => hj (Option.some.inj e).symm
    · nofun
  exact ⟨⟨fun e => absurd ((hports j y hy).disables.mp e).2 hne, fun e => absurd e.2 hne'⟩,
    ⟨fun e => absurd ((hports j y hy).enables.mp e).2 hne, fun e => absurd e.2 hne'⟩⟩

/-- The calls agree in a new phase, where the port that changes is the new caller or no call is outstanding. -/
theorem State.callAgrees_updPort {u : State} {k : Nat} {x : Port} {f : Port → Port} {caller : Option Nat}
    (hu : ∀ j, u.port? j = s.port? j) (hx : s.port? k = some x)
    (hother : ∀ j y, j ≠ k → s.port? j = some y → CallRole u.initPhase caller j y.state)
    (hnew : CallRole u.initPhase caller k (f x).state)
    (hcaller : caller = some k ∨ (u.initPhase ≠ .disabling ∧ u.initPhase ≠ .enabling)) : (u.updPort k f).CallAgrees := by
  have hall : s.AllPorts (fun _ _ => True) := fun _ _ _ => trivial
  refine ⟨caller, hall.updPort hu (fun j y hj hy _ => hother j y hj hy) fun y hy _ => ?_, fun hp => ?_⟩
  · obtain rfl := Option.some.inj (hx.symm.trans hy)
    exact hnew
  · obtain hk | ⟨hd, he⟩ := hcaller
    · obtain ⟨y, hy⟩ := State.exists_port?_updPort (f := f) (k := k) ((hu k).trans hx)
      exact ⟨k, y, hk, hy⟩
    · exact absurd hp (not_or.mpr ⟨hd, he⟩)

include h in
/-- INIT's first part (R261): the port becomes the caller. -/
theorem State.Agrees.starts {k : Nat} {x : Port} (hx : s.port? k = some x) (hidle : x.state = .idle) (hp : s.initPhase = .uninit) :
    (State.setPortState { s with initPhase := .disabling } k .initDisable).Agrees := by
  refine ⟨h.rx, h.tx, ?_, ?_, h.queue, h.receiver, h.framer, ?_⟩
  · refine h.ports.updPort (fun _ => rfl) (fun _ _ _ _ hr => hr) fun y hy hr => hr.change ?_ nofun nofun nofun
    obtain rfl := Option.some.inj (hx.symm.trans hy)
    simp [hidle]
  · refine State.callAgrees_updPort (s := s) (caller := some k) (fun _ => rfl) hx (fun j y hj hy => ?_)
      ⟨⟨fun _ => ⟨rfl, rfl⟩, fun _ => rfl⟩, nofun, nofun⟩ (.inl rfl)
    have hnot := h.awaits_eq_false (by simp [hp]) (by simp [hp]) hy
    exact ⟨⟨fun e => by simp [e, PortState.awaitsCollaborator] at hnot, fun e => absurd (Option.some.inj e.2).symm hj⟩,
      ⟨fun e => by simp [e, PortState.awaitsCollaborator] at hnot, nofun⟩⟩
  · have hen := h.enabled
    simp only [State.EnabledAgrees, hp] at hen
    exact ⟨fun e => by simpa using hen.mp e, nofun⟩

/-- A port as the answer that ends INIT leaves it (R263, R264): IDLE, with the response. -/
def Port.answered (code : BitVec 8) (v : Word) : Port := { state := .idle, rspCode := code, rspValue := v }

include h in
/-- An answer that ends INIT leaves the calls in agreement, in the phase it ends in. -/
theorem State.Agrees.ends_call {u : State} {k : Nat} {x : Port} (hu : ∀ j, u.port? j = s.port? j) (hview : u.portView = s.portView)
    (hx : s.port? k = some x) (hw : x.state.awaitsCollaborator = true) (hphase : u.initPhase ≠ .disabling ∧ u.initPhase ≠ .enabling)
    {code : BitVec 8} {v : Word} :
    (u.updPort k fun _ => Port.answered code v).CallAgrees ∧
      (u.updPort k fun _ => Port.answered code v).AllPorts (fun j y => PortRole u.portView j y.state) := by
  constructor
  · exact State.callAgrees_updPort (caller := none) hu hx (fun j y hj hy => h.call_of_awaits hx hw hj hy (.inr rfl))
      ⟨⟨nofun, nofun⟩, nofun, nofun⟩ (.inr hphase)
  · rw [hview]
    refine h.ports.updPort hu (fun _ _ _ _ hr => hr) fun y hy hr => hr.change ?_ nofun nofun nofun
    obtain rfl := Option.some.inj (hx.symm.trans hy)
    obtain e | e := PortState.awaitsCollaborator_iff.mp hw <;> simp [e]

end Steps

/-! ### Every agent -/

section Agents
variable {s t : State} (hs : s.Shaped) (hsound : s.Sound) (h : s.Agrees)

include hs hsound h in
theorem CommandDoes.agrees {x : Port} (hx : s.port? s.cmdPort = some x) (hidle : x.state = .idle)
    (hd : CommandDoes s (.next t)) : t.Agrees := by
  have quiet {y : PortState} (hy : y ≠ .txWait ∧ y.awaitsCollaborator = false) (hdeq : y = .holdDeq → s.cmdPort = 0)
      (htx : ∀ i ∈ y.heldTx?, i < s.cfg.txPoolN) : (s.setPortState s.cmdPort y).Agrees :=
    h.updPort fun z hz => .inr (by
      obtain rfl := Option.some.inj (hx.symm.trans hz)
      exact ⟨by simp [hidle, PortState.awaitsCollaborator], hy, hdeq, htx⟩)
  cases hd with
  | responds => exact h.respond
  | raises => exact h.raise
  | touches v hb ho hnew =>
    refine State.Agrees.respond (h.updBuf fun c hc => ?_)
    obtain rfl := Option.some.inj (hb.symm.trans hc)
    exact ⟨ho, hnew⟩
  | starts hp => exact h.starts hx hidle hp
  | holdsDeq hk => exact quiet (by simp [PortState.awaitsCollaborator]) (fun _ => hk) nofun
  | takes hk hd =>
    refine hd.agrees hs h fun y hy => .inl ?_
    obtain rfl := Option.some.inj (hx.symm.trans (hk ▸ hy))
    exact hidle
  | holdsTx hi =>
    exact quiet (by simp [PortState.awaitsCollaborator]) nofun fun j hj => by
      obtain rfl : _ = j := by simpa [PortState.heldTx?] using hj
      exact hi
  | sends _ hbusy hd => exact hd.agrees hs hsound h hbusy hx (by simp [hidle, PortState.awaitsCollaborator])

include hs hsound h in
/-- Every action but reset keeps the registers' agreement. -/
theorem Does.agrees {a : Action} (hd : Does s a (.next t)) : t.Agrees := by
  cases hd with
  | stays => exact h
  | @command k w x o hx hidle hd =>
    exact CommandDoes.agrees (s := { s with cmdPort := k }) hs hsound
      ⟨h.rx, h.tx, h.ports, h.call, h.queue, h.receiver, h.framer, h.enabled⟩ hx hidle hd
  | @receives w v rest o hen hu hd =>
    exact ReceiverDoes.agrees (s := { s with uartRx := rest }) hs
      ⟨h.rx, h.tx, h.ports, h.call, h.queue, h.receiver, h.framer, h.enabled⟩ hen hd
  | @takes k x o hx hhold hd =>
    have hk : k = 0 := (h.ports k x hx).holdsDeq hhold
    subst hk
    refine hd.agrees hs h fun y hy => .inr ?_
    obtain rfl := Option.some.inj (hx.symm.trans hy)
    exact hhold
  | accepts hx hhold hbusy hd => exact hd.agrees hs hsound h hbusy hx (by simp [hhold, PortState.awaitsCollaborator])
  | sends hbusy hd => exact hd.agrees h hbusy
  | @fails k x y hx hwait =>
    obtain ⟨caller, hports, -⟩ := h.call
    have hp : s.initPhase = .disabling := ((hports k x hx).disables.mp hwait).1
    obtain ⟨hcall, hport⟩ := h.ends_call (u := { s with initPhase := .uninit }) (code := 0x02#8) (v := y) (fun _ => rfl) rfl hx
      (by rw [hwait]; rfl) (by simp)
    have hen := h.enabled
    simp only [State.EnabledAgrees, hp] at hen
    exact ⟨h.rx, h.tx, hport, hcall, h.queue, h.receiver, h.framer, fun e => by simpa using hen.mp e, nofun⟩
  | @drains k x hx hwait =>
    obtain ⟨hfill, hrem, hrest, hcnt, hidx, -⟩ := h.receiver
    refine ⟨h.rx, h.tx, ?_, ?_, h.queue, ⟨hfill, hrem, hrest, hcnt, hidx, nofun⟩, h.framer, fun _ => .inl rfl, fun _ => rfl⟩
    · refine h.ports.updPort (fun _ => rfl) (fun _ _ _ _ hr => hr) fun y hy hr => hr.change ?_ nofun nofun nofun
      obtain rfl := Option.some.inj (hx.symm.trans hy)
      simp [hwait]
    · exact State.callAgrees_updPort (s := s) (caller := some k) (fun _ => rfl) hx
        (fun j y hj hy => h.call_of_awaits hx (by rw [hwait]; rfl) hj hy (.inl rfl))
        ⟨⟨nofun, nofun⟩, fun _ => ⟨rfl, rfl⟩, fun _ => rfl⟩ (.inl rfl)
  | @enables k x y hx hwait =>
    obtain ⟨caller, hports, -⟩ := h.call
    have hp : s.initPhase = .enabling := ((hports k x hx).enables.mp hwait).1
    obtain ⟨hcall, hport⟩ := h.ends_call (u := { s with initPhase := .ready })
      (code := if y = 0#32 then 0x00#8 else 0x02#8) (v := y) (fun _ => rfl) rfl hx (by rw [hwait]; rfl) (by simp)
    exact ⟨h.rx, h.tx, hport, hcall, h.queue, h.receiver, h.framer, fun _ => .inr rfl, fun _ => h.enabled.mpr (.inl hp)⟩
  | arrives | binds => exact ⟨h.rx, h.tx, h.ports, h.call, h.queue, h.receiver, h.framer, h.enabled⟩

end Agents

end Sys2Proof.Machine
end

section
/-! PROOFS. What holds of every step of the whole machine from a state with the invariant (10_state.md R54 to R58): no fault of the
model, each buffer's step one of those of the rules (R28, R71), and the invariant again. -/

namespace Sys2Proof.Machine

/-! ### Each buffer's step -/

/-- Each buffer has made one of the rules' steps. -/
def BuffersStep (s t : State) : Prop :=
  ∀ p i b b', s.buf? p i = some b → t.buf? p i = some b' → BufferStep p (s.cap p) b b'

section BuffersStep
variable {s t u : State}

theorem buffersStep_of_eq (hu : ∀ p i, t.buf? p i = s.buf? p i) : BuffersStep s t := by
  intro p i b b' hb hb'
  rw [hu, hb] at hb'
  cases hb'
  exact .kept

theorem buffersStep_updBuf {p : Pool} {i : Nat} {f : Buffer → Buffer} (hu : ∀ p i, u.buf? p i = s.buf? p i)
    (hf : ∀ b, s.buf? p i = some b → BufferStep p (s.cap p) b (f b)) : BuffersStep s (u.updBuf p i f) := by
  intro p' i' b b' hb hb'
  rw [State.buf?_updBuf, hu, hu] at hb'
  split at hb'
  · next e =>
    obtain ⟨rfl, rfl⟩ := e
    rw [hb] at hb'
    cases hb'
    exact hf b hb
  · rw [hb] at hb'
    cases hb'
    exact .kept

/-- As `buffersStep_updBuf`, of the buffer that is there. -/
theorem buffersStep_updBuf_of {p : Pool} {i : Nat} {f : Buffer → Buffer} {b : Buffer} (hu : ∀ p i, u.buf? p i = s.buf? p i)
    (hb : s.buf? p i = some b) (hf : BufferStep p (s.cap p) b (f b)) : BuffersStep s (u.updBuf p i f) :=
  buffersStep_updBuf hu fun c hc => by
    obtain rfl := Option.some.inj (hb.symm.trans hc)
    exact hf

theorem DeqDoes.buffersStep (hs : s.Shaped) (h : s.Agrees) (hd : DeqDoes s (.next t)) : BuffersStep s t := by
  cases hd with
  | @takes i rest b hq hb =>
    have ho : b.owner = .queue := (h.rx i.toNat b hb).queued.mpr (by
      rw [(ofNat_eq_iff (hs.lt_32 hb)).mpr rfl]
      simp [State.rxView, hq])
    exact (buffersStep_updBuf_of (fun _ _ => rfl) hb (.taken rfl ho) :
      BuffersStep s (State.updBuf { s with q := rest } .rx i.toNat fun b => { b with owner := .client }))

theorem TxDoes.buffersStep {k i : Nat} (hd : TxDoes s k i (.next t)) : BuffersStep s t := by
  cases hd with
  | faults c => exact buffersStep_of_eq (by simp [txFault])
  | accepts hb ho hh =>
    exact (buffersStep_updBuf_of (fun _ _ => rfl) hb (.framed rfl ho hh) :
      BuffersStep s ((s.sending k i).updBuf .tx i Buffer.framed))

theorem FramerDoes.buffersStep (h : s.Agrees) (hbusy : s.txBusy = true) (hd : FramerDoes s (.next t)) : BuffersStep s t := by
  cases hd with
  | sends => exact buffersStep_of_eq fun _ _ => rfl
  | completes v hb =>
    have ho := (h.tx _ _ hb).sent.mpr ⟨hbusy, rfl⟩
    exact (buffersStep_updBuf_of (fun _ _ => rfl) hb (.sent rfl ho) : BuffersStep s (State.updBuf { s with
      uartTx := s.uartTx ++ [v], txBusy := false, txIdx := 0#5, txPos := 0#16, txPort := 0#8 } .tx s.txIdx.toNat
        fun b => { b with owner := .free }))

theorem ReceiverDoes.buffersStep (h : s.Agrees) (hd : ReceiverDoes s (.next t)) : BuffersStep s t := by
  have filled {b : Buffer} (hst : s.rxState = .awaitPayload) (hb : s.buf? .rx s.rxBufIdx.toNat = some b) : b.owner = .receiver :=
    (h.rx _ b hb).filled.mpr ⟨hst, rfl⟩
  cases hd with
  | counts | drops | discards | skips | skipsLast => exact buffersStep_of_eq fun _ _ => rfl
  | enqueues _ _ hb ho => exact buffersStep_updBuf_of (fun _ _ => rfl) hb (.addressed rfl ho (.inr rfl))
  | starts _ _ hb ho => exact buffersStep_updBuf_of (fun _ _ => rfl) hb (.addressed rfl ho (.inl rfl))
  | stores v hst hb _ hc =>
    have ho := filled hst hb
    have hstep := BufferStep.stored (v := v) rfl ho hc (.inl rfl)
    rw [← ho] at hstep
    exact buffersStep_updBuf_of (fun _ _ => rfl) hb hstep
  | ends v hst hb hc => exact buffersStep_updBuf_of (fun _ _ => rfl) hb (.stored rfl (filled hst hb) hc (.inr rfl))

theorem CommandDoes.buffersStep (hs : s.Shaped) (h : s.Agrees) (hd : CommandDoes s (.next t)) : BuffersStep s t := by
  cases hd with
  | responds | starts | holdsDeq | holdsTx => exact buffersStep_of_eq fun _ _ => rfl
  | raises => exact buffersStep_of_eq fun _ _ => State.buf?_raise ..
  | @touches p i b f v hb _ _ hstep =>
    exact (buffersStep_updBuf_of (fun _ _ => rfl) hb hstep : BuffersStep s (s.updBuf p i f))
  | takes _ hd => exact hd.buffersStep hs h
  | sends _ _ hd => exact hd.buffersStep

theorem Does.buffersStep {a : Action} (hs : s.Shaped) (h : s.Agrees) (hd : Does s a (.next t)) : BuffersStep s t := by
  cases hd with
  | stays | fails | drains | enables | arrives | binds => exact buffersStep_of_eq fun _ _ => rfl
  | @command k _ _ _ _ _ hd =>
    exact CommandDoes.buffersStep (s := { s with cmdPort := k }) hs
      ⟨h.rx, h.tx, h.ports, h.call, h.queue, h.receiver, h.framer, h.enabled⟩ hd
  | @receives _ _ rest _ _ _ hd =>
    exact ReceiverDoes.buffersStep (s := { s with uartRx := rest })
      ⟨h.rx, h.tx, h.ports, h.call, h.queue, h.receiver, h.framer, h.enabled⟩ hd
  | takes _ _ hd => exact hd.buffersStep hs h
  | accepts _ _ _ hd => exact hd.buffersStep
  | sends hbusy hd => exact hd.buffersStep h hbusy

/-- The buffers' steps keep them sound, where the pools have the members they had. -/
theorem State.Sound.of_buffersStep (hs : s.Shaped) (hsound : s.Sound) (hcfg : t.cfg = s.cfg) (h : BuffersStep s t) : t.Sound := by
  intro p i b' hb'
  have hi := State.lt_of_buf? hb'
  rw [State.poolN_congr hcfg] at hi
  obtain ⟨b, hb⟩ := hs.exists_buf hi
  rw [State.cap_congr hcfg]
  exact (h p i b b' hb hb').sound (hs.cap_le p) (hsound p i b hb)

end BuffersStep

/-! ### Reset -/

theorem buf?_fresh {c : Config} {p : Pool} {i : Nat} {b : Buffer} (h : (State.fresh c).buf? p i = some b) : b = Buffer.reset := by
  have hb := buf?_blockReset (s := State.fresh c) (State.lt_of_buf? h)
  exact Option.some.inj (h.symm.trans hb)

theorem port?_fresh {c : Config} {k : Nat} {x : Port} (h : (State.fresh c).port? k = some x) : x = Port.reset := by
  have hx := port?_blockReset (s := State.fresh c) (State.lt_of_port? h)
  exact Option.some.inj (h.symm.trans hx)

/-- After reset every buffer is idle and empty, every port idle, and every register at rest. -/
theorem State.agrees_fresh (c : Config) : (State.fresh c).Agrees where
  rx _ _ hb := by
    obtain rfl := buf?_fresh hb
    exact RxRole.mk_idle (.inl rfl) nofun nofun
  tx _ _ hb := by
    obtain rfl := buf?_fresh hb
    exact TxRole.mk_idle (.inl rfl) nofun
  ports _ _ hx := by
    obtain rfl := port?_fresh hx
    exact ⟨⟨nofun, nofun⟩, nofun, nofun⟩
  call := ⟨none, fun _ _ hx => by
    obtain rfl := port?_fresh hx
    exact ⟨⟨nofun, nofun⟩, nofun, nofun⟩, nofun⟩
  queue := ⟨List.nodup_nil, nofun⟩
  receiver := ⟨nofun, fun e => absurd rfl e, fun _ => rfl, fun _ => rfl, fun _ => rfl, fun _ => ⟨rfl, rfl⟩⟩
  framer := ⟨nofun, fun _ => ⟨rfl, rfl, rfl⟩⟩
  enabled := ⟨nofun, nofun⟩

theorem State.sound_fresh (c : Config) : (State.fresh c).Sound := by
  intro p i b hb
  obtain rfl := buf?_fresh hb
  exact ⟨Nat.zero_le _, List.Pairwise.nil, nofun, nofun⟩

theorem State.shaped_fresh {c : Config} (h : c.Valid) : (State.fresh c).Shaped :=
  ⟨h, List.length_replicate .., List.length_replicate .., List.length_replicate ..⟩

/-- Settles O46: right after reset each part of the invariant is that of an idle block. -/
theorem invariantHoldsAfterReset : Obligations.InvariantHoldsAfterReset := fun c h =>
  State.inv_iff.mpr ⟨State.shaped_fresh h, State.sound_fresh c, State.agrees_fresh c⟩

/-! ### Every step -/

theorem State.Shaped.of_sizes {s t : State} (h : s.Shaped) (he : t.sizes = s.sizes) : t.Shaped := by
  simp only [State.sizes, Prod.mk.injEq] at he
  obtain ⟨hcfg, hrx, htx, hports⟩ := he
  simpa only [State.Shaped, hcfg, hrx, htx, hports] using h

/-- Who moves next does not enter the invariant. -/
theorem State.Inv.withSchedule {s : State} (h : s.Inv) (rest : List Action) : State.Inv { s with schedule := rest } :=
  ⟨h.shaped, h.queue, h.receiver, h.framer, h.bounded, h.rested, h.init, h.holds, h.memory, h.written⟩

/-- Every action keeps the invariant, reset included. -/
theorem act_keeps_inv {s t : State} {a : Action} (h : s.Inv) (ha : act a s = .next t) : t.Inv := by
  by_cases hr : a = .reset
  · subst hr
    rw [act_reset] at ha
    cases ha
    have hf := invariantHoldsAfterReset s.cfg h.shaped.1
    exact ⟨hf.shaped, hf.queue, hf.receiver, hf.framer, hf.bounded, hf.rested, hf.init, hf.holds, hf.memory, hf.written⟩
  · obtain ⟨hs, hsound, hagrees⟩ := State.inv_iff.mp h
    have hdoes : Does s a (.next t) := ha ▸ act_does hr s
    exact State.inv_iff.mpr ⟨hs.of_sizes (act_keepsSizes hr s t ha),
      hsound.of_buffersStep hs (act_keeps_cfg ha) (hdoes.buffersStep hs hagrees), hdoes.agrees hs hsound hagrees⟩

/-- Settles O47: the agent that moves keeps the shape, the soundness of each buffer and the registers' agreement. -/
theorem everyStepKeepsTheInvariant : Obligations.EveryStepKeepsTheInvariant := by
  intro s t h ht
  obtain ⟨-, rfl⟩ | ⟨a, rest, -, ha⟩ := step_next_cases ht
  · exact h
  · exact act_keeps_inv (h.withSchedule rest) ha

/-- A step that is no reset, from a state with the invariant, is one of the rules' steps for each buffer. -/
theorem step_buffersStep {s t : State} (h : s.Inv) (hr : s.resetNotDue) (ht : step s = .next t) : BuffersStep s t := by
  obtain rfl | ⟨a, rest, -, -, hdoes⟩ := step_does hr ht
  · exact buffersStep_of_eq fun _ _ => rfl
  · obtain ⟨hs, -, hagrees⟩ := State.inv_iff.mp (h.withSchedule rest)
    exact (hdoes.buffersStep hs hagrees : BuffersStep { s with schedule := rest } t)

theorem legalHandoff_self (p : Pool) (o : Owner) : legalHandoff p o o = true := by cases p <;> cases o <;> rfl

/-- Each of the rules' steps of a buffer changes its owner legally (R28). -/
theorem BufferStep.legalHandoff {p : Pool} {cap : Nat} {b b' : Buffer} (h : BufferStep p cap b b') :
    legalHandoff p b.owner b'.owner = true := by
  cases h with
  | kept | appended | pulled => exact legalHandoff_self p b.owner
  | allocated ho => rw [ho]; cases p <;> rfl
  | released ho => rw [ho]; cases p <;> rfl
  | addressed hp ho hnew => subst hp; rw [ho]; obtain rfl | rfl := hnew <;> rfl
  | stored hp ho _ hnew => subst hp; rw [ho]; obtain rfl | rfl := hnew <;> rfl
  | taken hp ho | framed hp ho | sent hp ho => subst hp; rw [ho]; rfl

/-- Settles O54: each buffer's step is one of the rules', and those change the owner legally. -/
theorem ownersChangeOnlyAlongTheLegalSequences : Obligations.OwnersChangeOnlyAlongTheLegalSequences :=
  fun _ _ p i b b' h hr ht hb hb' => (step_buffersStep h hr ht p i b b' hb hb').legalHandoff

/-- Of the rules' steps only those of an agent that owns the buffer touch it, but for the allocation of a FREE one (R71). -/
theorem BufferStep.untouched {p : Pool} {cap : Nat} {b b' : Buffer} (h : BufferStep p cap b b')
    (ho : b.owner = .free ∨ b.owner = .queue) :
    b'.data = b.data ∧ (b'.owner = .free ∨ b.owner = .queue → b' = { b with owner := b'.owner }) := by
  have absent {o : Owner} {q : Prop} (hown : b.owner = o) (hne : o ≠ .free ∧ o ≠ .queue) : q := by
    subst hown
    exact absurd ho (not_or.mpr hne)
  cases h with
  | kept | taken => exact ⟨rfl, fun _ => rfl⟩
  | allocated hf => exact ⟨rfl, by simp [hf, Buffer.allocated]⟩
  | addressed _ hf hnew => exact ⟨rfl, by obtain rfl | rfl := hnew <;> simp [hf, Buffer.addressed, Buffer.allocated]⟩
  | released hown | appended hown | pulled hown | stored _ hown | framed _ hown | sent _ hown => exact absent hown (by simp)

/-- Settles O55: each buffer's step is one of the rules'. -/
theorem unownedBuffersAreNotTouched : Obligations.UnownedBuffersAreNotTouched :=
  fun _ _ p i b b' h hr ht hb hb' ho => (step_buffersStep h hr ht p i b b' hb hb').untouched ho

/-! ### No fault of the model -/

section NoFault
variable {s : State} {f : Fault} (hs : s.Shaped) (hsound : s.Sound) (h : s.Agrees)

/-- A buffer below `N_p` is there (R58). -/
theorem State.Shaped.buf?_ne_none {s : State} (hs : s.Shaped) {p : Pool} {i : Nat} (hi : i < s.poolN p) : s.buf? p i ≠ none := by
  obtain ⟨b, hb⟩ := hs.exists_buf hi
  simp [hb]

include hs h in
theorem DeqDoes.no_fault : ¬DeqDoes s (.fault f) := by
  intro hd
  cases hd with
  | noBuffer hq hb => exact hs.buf?_ne_none (p := .rx) (h.queue.2 _ (by simp [hq])) hb

include hs hsound in
theorem TxDoes.no_fault {k i : Nat} (hi : i < s.cfg.txPoolN) : ¬TxDoes s k i (.fault f) := by
  intro hd
  cases hd with
  | noBuffer hb => exact hs.buf?_ne_none (p := .tx) hi hb
  | outside hb _ hc =>
    have hfits := (hsound .tx i _ hb).fits
    omega

include hs hsound h in
theorem FramerDoes.no_fault (hbusy : s.txBusy = true) : ¬FramerDoes s (.fault f) := by
  intro hd
  cases hd with
  | noBuffer hb => exact hs.buf?_ne_none (p := .tx) (h.framer.1 hbusy).1 hb
  | outside hb hc =>
    have hfits := (hsound .tx _ _ hb).fits
    obtain ⟨-, hpos⟩ := (h.tx _ _ hb).sending ⟨hbusy, rfl⟩
    change s.txPos.toNat + 1 ≤ _ at hpos
    omega

include hs h in
theorem ReceiverDoes.no_fault : ¬ReceiverDoes s (.fault f) := by
  intro hd
  obtain ⟨hfill, hrem, -⟩ := h.receiver
  cases hd with
  | noBuffer hst hb => exact hs.buf?_ne_none (p := .rx) (hfill hst) hb
  | underflow hst hr => simpa [hr] using hrem hst
  | outside hst hb hr hc =>
    obtain ⟨hhead, hsum, hcap⟩ := (h.rx _ _ hb).filling ⟨hst, rfl⟩
    change _ + s.rxRemaining.toNat = _ at hsum
    change _ ≤ s.cfg.rxBufCap at hcap
    simp only [hhead, BitVec.toNat_ofNat] at hc
    omega

include hs hsound h in
theorem CommandDoes.no_fault : ¬CommandDoes s (.fault f) := by
  intro hd
  cases hd with
  | outside hb hj hc =>
    have hfits := (hsound _ _ _ hb).fits
    omega
  | takes _ hd => exact hd.no_fault hs h
  | sends hi _ hd => exact hd.no_fault hs hsound hi

include hs hsound h in
theorem Does.no_fault {a : Action} : ¬Does s a (.fault f) := by
  intro hd
  cases hd with
  | @command k _ _ _ _ _ hd =>
    exact CommandDoes.no_fault (s := { s with cmdPort := k }) hs hsound
      ⟨h.rx, h.tx, h.ports, h.call, h.queue, h.receiver, h.framer, h.enabled⟩ hd
  | @receives _ _ rest _ _ _ hd =>
    exact ReceiverDoes.no_fault (s := { s with uartRx := rest }) hs
      ⟨h.rx, h.tx, h.ports, h.call, h.queue, h.receiver, h.framer, h.enabled⟩ hd
  | takes _ _ hd => exact hd.no_fault hs h
  | accepts hx hhold _ hd => exact hd.no_fault hs hsound ((h.ports _ _ hx).holdsTx _ (by rw [hhold]; rfl))
  | sends hbusy hd => exact hd.no_fault hs hsound h hbusy

end NoFault

/-- Settles O48: each way an agent could fault contradicts the invariant. -/
theorem noStepFaultsUnderTheInvariant : Obligations.NoStepFaultsUnderTheInvariant := by
  intro s f h hf
  cases hsched : s.schedule with
  | nil =>
    rw [step_idle hsched] at hf
    cases hf
  | cons a rest =>
    rw [step_eq_act hsched] at hf
    by_cases hr : a = .reset
    · subst hr
      rw [act_reset] at hf
      cases hf
    · obtain ⟨hs, hsound, hagrees⟩ := State.inv_iff.mp (h.withSchedule rest)
      exact Does.no_fault hs hsound hagrees (hf ▸ act_does hr _)

end Sys2Proof.Machine
end

section
/-! PROOFS. What a buffer's bytes were drawn as at reset is never seen (93_implementation_defined.md U5): every operation but BufRead
passes the draw on without reading it, and BufRead of a used byte reads one that has been written (92_eei_decisions.md D9). -/

namespace Sys2Proof.Machine

/-- The same state with another draw. -/
def State.redraw (g : Nat) (s : State) : State := { s with drawGen := g }

/-- The same outcome with another draw. -/
def redrawOut (g : Nat) : Out → Out
  | .next t => .next (t.redraw g)
  | .fault f => .fault f
  | .refused r => .refused r

/-- From `s` the operation does the same whatever the draw. -/
def Blind (s : State) (e : State → Out) : Prop := ∀ g, e (s.redraw g) = redrawOut g (e s)

section Operations
variable (s : State)

theorem State.redraw_updBuf (g : Nat) (p : Pool) (i : Nat) (f : Buffer → Buffer) :
    (s.redraw g).updBuf p i f = (s.updBuf p i f).redraw g := by cases p <;> rfl

theorem State.redraw_raise (g k : Nat) (c : Cause) : (s.redraw g).raise k c = (s.raise k c).redraw g := by
  unfold State.raise State.recordFault
  cases hv : s.faultValid <;> simp [State.redraw, hv, State.updPort]

theorem blind_raise (c : Cause) : Blind s (fun u => .next (u.raise u.cmdPort c)) := fun g =>
  congrArg Host.Outcome.next (s.redraw_raise g s.cmdPort c)

theorem execAlloc_blind (p : Pool) (r : Nat) : Blind s (execAlloc p r) := by
  intro g
  unfold execAlloc
  rw [show (s.redraw g).cap p = s.cap p from rfl]
  split
  · exact blind_raise s _ g
  · unfold State.poolAlloc?
    rw [show (s.redraw g).firstFree? p = s.firstFree? p from rfl]
    cases s.firstFree? p with
    | none => rfl
    | some i => simp only [State.redraw_updBuf]; rfl

theorem blind_of_guarded {c : Instr} {p : Pool} {i : Nat} {onFree : Cause} (hg : guardedBuffer? c = some (p, i, onFree))
    (h : ∀ b, s.buf? p i = some b → b.owner = .client → Blind s (exec c)) : Blind s (exec c) := by
  cases hc : checkBuf s p i onFree with
  | error d =>
    intro g
    rw [exec_of_checkBuf_error hg hc, exec_of_checkBuf_error (s := s.redraw g) hg hc]
    exact blind_raise s d g
  | ok b =>
    obtain ⟨hb, ho⟩ := checkBuf_ok.mp hc
    exact h b hb ho

theorem blind_updBuf_respond (p : Pool) (i : Nat) (f : Buffer → Buffer) (c : Code) (v : Word) :
    Blind s (fun u => .next ((u.updBuf p i f).respond u.cmdPort c v)) := by
  intro g
  simp only [State.redraw_updBuf]
  rfl

theorem execRelease_blind (p : Pool) (i : Nat) : Blind s (exec (.release p i)) := by
  refine blind_of_guarded s rfl fun b hb ho g => ?_
  rw [exec_release_of_client hb ho, exec_release_of_client (s := s.redraw g) hb ho]
  exact blind_updBuf_respond s p i _ _ _ g

theorem execBufAdd_blind (p : Pool) (i : Nat) (v : Byte) : Blind s (exec (.bufAdd p i v)) := by
  refine blind_of_guarded s rfl fun b hb ho g => ?_
  by_cases h : b.head.toNat + b.len.toNat < s.cap p
  · rw [exec_bufAdd_of_room hb ho v h, exec_bufAdd_of_room (s := s.redraw g) hb ho v h]
    exact blind_updBuf_respond s p i _ _ _ g
  · have h := Nat.not_lt.mp h
    rw [exec_bufAdd_of_full hb ho v h, exec_bufAdd_of_full (s := s.redraw g) hb ho v h]
    exact blind_raise s _ g

theorem execBufPull_blind (p : Pool) (i n : Nat) : Blind s (exec (.bufPull p i n)) := by
  refine blind_of_guarded s rfl fun b hb ho g => ?_
  by_cases h : n ≤ b.len.toNat
  · rw [exec_bufPull_of_le hb ho h, exec_bufPull_of_le (s := s.redraw g) hb ho h]
    exact blind_updBuf_respond s p i _ _ _ g
  · have h := Nat.not_le.mp h
    rw [exec_bufPull_of_underflow hb ho h, exec_bufPull_of_underflow (s := s.redraw g) hb ho h]
    exact blind_raise s _ g

/-- A used byte has been written, so its reading depends on no draw (D9). -/
theorem State.Sound.bufRead?_redraw {s : State} (h : s.Sound) {p : Pool} {i j : Nat} {b : Buffer} (hb : s.buf? p i = some b)
    (hj : j < b.len.toNat) (g : Nat) :
    (s.redraw g).bufRead? p i (b.head.toNat + j) = s.bufRead? p i (b.head.toNat + j) := by
  obtain ⟨v, hv⟩ := Option.isSome_iff_exists.mp ((h p i b hb).written j hj)
  have hb' : (s.redraw g).buf? p i = some b := hb
  simp only [State.bufRead?, hb, hb', hv]
  rfl

theorem execBufRd_blind (hsound : s.Sound) (p : Pool) (i o : Nat) : Blind s (exec (.bufRd p i o)) := by
  refine blind_of_guarded s rfl fun b hb ho g => ?_
  by_cases h : o < b.len.toNat
  · have hfits := (hsound p i b hb).fits
    obtain ⟨v, hv⟩ := State.exists_bufRead? hb (j := b.head.toNat + o) (by omega)
    rw [exec_bufRd_of_lt hb ho h hv, exec_bufRd_of_lt (s := s.redraw g) hb ho h ((hsound.bufRead?_redraw hb h g).trans hv)]
    rfl
  · have h := Nat.not_lt.mp h
    rw [exec_bufRd_of_out hb ho h, exec_bufRd_of_out (s := s.redraw g) hb ho h]
    exact blind_raise s _ g

theorem execBufInfo_blind (p : Pool) (i : Nat) : Blind s (exec (.bufInfo p i)) := by
  refine blind_of_guarded s rfl fun b hb ho g => ?_
  rw [exec_bufInfo_of_client hb ho, exec_bufInfo_of_client (s := s.redraw g) hb ho]
  rfl

theorem execBufHdr_blind (p : Pool) (i : Nat) : Blind s (exec (.bufHdr p i)) := by
  cases p with
  | tx => exact blind_raise s .wrongPool
  | rx =>
    refine blind_of_guarded s rfl fun b hb ho g => ?_
    rw [exec_bufHdr_of_client hb ho, exec_bufHdr_of_client (s := s.redraw g) hb ho]
    rfl

theorem deqComplete_blind (i : BitVec 5) (q : List (BitVec 5)) : Blind s (deqComplete i q) := by
  intro g
  unfold deqComplete
  rw [show (s.redraw g).buf? .rx i.toNat = s.buf? .rx i.toNat from rfl]
  cases s.buf? .rx i.toNat <;> rfl

theorem execDeq_blind : Blind s execDeq := by
  intro g
  unfold execDeq
  rw [show (s.redraw g).cmdPort = s.cmdPort from rfl, show (s.redraw g).q = s.q from rfl]
  split
  · exact blind_raise s _ g
  cases s.q with
  | nil => rfl
  | cons i q => exact deqComplete_blind s i q g

theorem State.redraw_bufWrites? (g : Nat) (p : Pool) (i : Nat) (vs : List Byte) :
    ∀ (s : State) (j : Nat), (s.redraw g).bufWrites? p i j vs = (s.bufWrites? p i j vs).map (State.redraw g) := by
  induction vs with
  | nil => exact fun _ _ => rfl
  | cons v vs ih =>
    intro s j
    unfold State.bufWrites? State.bufWrite?
    rw [show (s.redraw g).buf? p i = s.buf? p i from rfl, show (s.redraw g).cap p = s.cap p from rfl]
    cases s.buf? p i with
    | none => rfl
    | some b =>
      by_cases hj : j < s.cap p
      · simp only [hj, if_true, State.redraw_updBuf, ih]
      · simp only [hj, if_false]
        rfl

theorem txAccept_blind (k i : Nat) : Blind s (txAccept k i) := by
  intro g
  unfold txAccept
  rw [show (s.redraw g).buf? .tx i = s.buf? .tx i from rfl]
  cases s.buf? .tx i with
  | none => rfl
  | some b =>
    dsimp only
    split
    · exact congrArg Host.Outcome.next ((s.setPortState k .idle).redraw_raise g k _)
    split
    · exact congrArg Host.Outcome.next ((s.setPortState k .idle).redraw_raise g k _)
    rw [State.bufPush_eq, State.redraw_updBuf, State.redraw_bufWrites?, ← State.bufPush_eq]
    cases (s.bufPush .tx i 4).bufWrites? .tx i (b.head.toNat - 4) (headerBytes b.len 0#8 0#8) <;> rfl

theorem execTx_blind (p : Pool) (i : Nat) : Blind s (execTx p i) := by
  intro g
  unfold execTx
  rw [show (s.redraw g).cfg = s.cfg from rfl, show (s.redraw g).txBusy = s.txBusy from rfl]
  split
  · exact blind_raise s _ g
  split
  · exact blind_raise s _ g
  split
  · rfl
  · exact txAccept_blind s s.cmdPort i g

theorem execInit_blind : Blind s execInit := by
  intro g
  unfold execInit
  rw [show (s.redraw g).initPhase = s.initPhase from rfl, show (s.redraw g).uartBound = s.uartBound from rfl]
  split
  · exact blind_raise s _ g
  split <;> rfl

/-- No CSR shows a buffer's bytes. -/
theorem State.csr?_redraw (g c : Nat) : (s.redraw g).csr? c = s.csr? c := by
  have hbits (p : Pool) : ∀ n, (s.redraw g).freeMapBits p n = s.freeMapBits p n := by
    intro n
    induction n with
    | zero => rfl
    | succ n ih =>
      simp only [State.freeMapBits, ih]
      rfl
  have hmap (p : Pool) : (s.redraw g).freeMap p = s.freeMap p := hbits p 32
  unfold State.csr?
  simp only [hmap]
  rfl

theorem execCsrRd_blind (c : Nat) : Blind s (execCsrRd c) := by
  intro g
  unfold execCsrRd
  rw [s.csr?_redraw]
  cases s.csr? c with
  | none => exact blind_raise s _ g
  | some v => rfl

/-! ### The receiver -/

theorem headerComplete_redraw (g : Nat) (l : Half) (chan src : Byte) :
    headerComplete l chan src (s.redraw g) = (headerComplete l chan src s).redraw g := by
  unfold headerComplete
  rw [show (s.redraw g).cfg = s.cfg from rfl]
  split
  · rfl
  unfold State.poolAlloc?
  rw [show (s.redraw g).firstFree? .rx = s.firstFree? .rx from rfl]
  cases s.firstFree? .rx with
  | none =>
    dsimp only
    unfold exhausted
    split <;> rfl
  | some i =>
    dsimp only
    split <;> rfl

theorem headerByte_redraw (g : Nat) (v : Byte) : headerByte v (s.redraw g) = (headerByte v s).redraw g := by
  unfold headerByte
  rw [show (s.redraw g).hdrCnt = s.hdrCnt from rfl, show (s.redraw g).hdrBuf = s.hdrBuf from rfl]
  dsimp only
  split
  · exact headerComplete_redraw (s.headed (s.hdrBuf.put s.hdrCnt v)) g _ _ _
  · rfl

theorem payloadByte_blind (v : Byte) : Blind s (payloadByte v) := by
  intro g
  unfold payloadByte State.bufWrite?
  rw [show (s.redraw g).rxBufIdx = s.rxBufIdx from rfl]
  dsimp only
  rw [show (s.redraw g).buf? .rx s.rxBufIdx.toNat = s.buf? .rx s.rxBufIdx.toNat from rfl]
  rw [show (s.redraw g).rxRemaining = s.rxRemaining from rfl, show (s.redraw g).cap .rx = s.cap .rx from rfl]
  cases s.buf? .rx s.rxBufIdx.toNat with
  | none => rfl
  | some b =>
    dsimp only
    split
    · rfl
    by_cases hj : b.head.toNat + b.len.toNat < s.cap .rx
    · simp only [hj, if_true]
      split <;> rfl
    · simp only [hj, if_false]
      rfl

theorem discardByte_blind : Blind s discardByte := by
  intro g
  unfold discardByte
  rw [show (s.redraw g).rxRemaining = s.rxRemaining from rfl]
  dsimp only
  split
  · rfl
  split <;> rfl

theorem receiveByte_blind (v : Byte) : Blind s (receiveByte v) := by
  intro g
  unfold receiveByte
  rw [show (s.redraw g).rxState = s.rxState from rfl]
  cases s.rxState with
  | awaitHdr => exact congrArg Host.Outcome.next (headerByte_redraw s g v)
  | awaitPayload => exact payloadByte_blind s v g
  | discard => exact discardByte_blind s g

theorem execRxByte_blind (d : Byte) : Blind s (execRxByte d) := by
  intro g
  unfold execRxByte
  rw [show (s.redraw g).rxEn = s.rxEn from rfl, show (s.redraw g).uartRx = s.uartRx from rfl]
  split
  · cases s.uartRx with
    | nil => rfl
    | cons v rest => exact receiveByte_blind { s with uartRx := rest } v g
  · rfl

/-! ### Every agent -/

theorem exec_blind (hsound : s.Sound) (c : Instr) : Blind s (exec c) := by
  cases c with
  | nop | spurious | txReady => exact fun _ => rfl
  | alloc p r => exact execAlloc_blind s p r
  | release p i => exact execRelease_blind s p i
  | bufAdd p i v => exact execBufAdd_blind s p i v
  | bufPull p i n => exact execBufPull_blind s p i n
  | bufRd p i o => exact execBufRd_blind s hsound p i o
  | bufInfo p i => exact execBufInfo_blind s p i
  | bufHdr p i => exact execBufHdr_blind s p i
  | deq => exact execDeq_blind s
  | tx p i => exact execTx_blind s p i
  | init => exact execInit_blind s
  | csrRd c => exact execCsrRd_blind s c
  | rxByte d => exact execRxByte_blind s d

/-- The byte to send lies in the used region (R56), so it has been written. -/
theorem framerStep_blind (hsound : s.Sound) (h : s.Agrees) (hs : s.Shaped) (ready : Bool) : Blind s (framerStep ready) := by
  intro g
  by_cases hsend : s.txBusy = true ∧ ready = true
  · obtain ⟨hbusy, rfl⟩ := hsend
    obtain ⟨b, hb⟩ := hs.exists_buf (p := .tx) (h.framer.1 hbusy).1
    obtain ⟨-, hpos⟩ := (h.tx _ b hb).sending ⟨hbusy, rfl⟩
    change s.txPos.toNat + 1 ≤ b.len.toNat at hpos
    have hfits := (hsound .tx _ b hb).fits
    obtain ⟨v, hv⟩ := State.exists_bufRead? hb (j := b.head.toNat + s.txPos.toNat) (by omega)
    rw [framerStep_of_busy hbusy hb hv,
      framerStep_of_busy (s := s.redraw g) hbusy hb ((hsound.bufRead?_redraw hb hpos g).trans hv)]
    rw [show (s.redraw g).txPos = s.txPos from rfl]
    split <;> rfl
  · have hhold : s.txBusy = false ∨ ready = false := by simpa [imp_iff_not_or] using hsend
    rw [framerStep_of_hold hhold, framerStep_of_hold (s := s.redraw g) hhold]
    rfl

theorem portStep_blind (k : Nat) : Blind s (portStep k) := by
  intro g
  unfold portStep
  rw [show (s.redraw g).port? k = s.port? k from rfl, show (s.redraw g).q = s.q from rfl,
    show (s.redraw g).txBusy = s.txBusy from rfl]
  cases s.port? k with
  | none => rfl
  | some x =>
    dsimp only
    cases x.state with
    | holdDeq =>
      cases s.q with
      | nil => rfl
      | cons i q => exact deqComplete_blind s i q g
    | holdTx i =>
      dsimp only
      split
      · rfl
      · exact txAccept_blind s k i g
    | idle | txWait | initDisable | initEnable => rfl

theorem collaboratorAnswer_blind (y : Word) : Blind s (collaboratorAnswer y) := by
  intro g
  unfold collaboratorAnswer
  rw [show (s.redraw g).calling? = s.calling? from rfl]
  cases s.calling? with
  | none => rfl
  | some k =>
    dsimp only
    rw [show (s.redraw g).portIn k .initDisable = s.portIn k .initDisable from rfl]
    split
    · unfold initDisabled
      split <;> rfl
    · rw [initEnabled_eq, initEnabled_eq]
      rfl

theorem act_command_blind (hsound : s.Sound) (k : Nat) (w : Word) : Blind s (act (.command k w)) := by
  intro g
  cases hx : s.port? k with
  | none =>
    rw [act_command_of_noPort hx, act_command_of_noPort (s := s.redraw g) hx]
    rfl
  | some x =>
    by_cases hidle : x.state = .idle
    · rw [act_command_of_idle hx hidle, act_command_of_idle (s := s.redraw g) hx hidle]
      cases decodeCommand w with
      | ok i => exact exec_blind { s with cmdPort := k } hsound i g
      | error e =>
        cases e with
        | illegalOpcode | reservedNonzero => exact blind_raise { s with cmdPort := k } _ g
        | reservedEvent => rfl
    · rw [act_command_of_busy hx hidle, act_command_of_busy (s := s.redraw g) hx hidle]
      rfl

theorem act_event_blind (hsound : s.Sound) (w : EventWord) : Blind s (act (.event w)) := by
  intro g
  cases hd : decodeEvent w with
  | ok i =>
    rw [act_event_of_decode hd, act_event_of_decode hd]
    exact exec_blind s hsound i g
  | error e =>
    rw [act_event_of_error hd, act_event_of_error hd]
    rfl

theorem act_blind (h : s.Inv) {a : Action} (ha : a ≠ .reset) : Blind s (act a) := by
  obtain ⟨hs, hsound, hagrees⟩ := State.inv_iff.mp h
  cases a with
  | command k w => exact act_command_blind s hsound k w
  | event w => exact act_event_blind s hsound w
  | port k => exact portStep_blind s k
  | framer ready => exact framerStep_blind s hsound hagrees hs ready
  | answer y => exact collaboratorAnswer_blind s y
  | arrive v =>
    intro g
    rw [act_arrive, act_arrive]
    unfold uartArrive
    rw [show (s.redraw g).uartRxFull = s.uartRxFull from rfl]
    split <;> rfl
  | bind b => exact fun _ => rfl
  | reset => exact absurd rfl ha

end Operations

/-- Every step but reset does the same whatever the draw. -/
theorem step_blind {s : State} (h : s.Inv) (hr : s.resetNotDue) : Blind s step := by
  intro g
  cases hsched : s.schedule with
  | nil =>
    rw [step_idle hsched, step_idle (s := s.redraw g) hsched]
    rfl
  | cons a rest =>
    have ha : a ≠ .reset := fun e => hr (by rw [hsched, e]; rfl)
    rw [step_eq_act hsched, step_eq_act (s := s.redraw g) hsched]
    exact act_blind _ (h.withSchedule rest) ha g

/-- Settles O49: the step of the redrawn state is the redrawn outcome. -/
theorem unwrittenBytesAreNeverSeen : Obligations.UnwrittenBytesAreNeverSeen := by
  intro s g h hr
  have hblind := step_blind h hr g
  refine ⟨fun t ht => ?_, fun r hr' => ?_⟩
  · rw [ht] at hblind
    exact hblind
  · rw [hr'] at hblind
    exact hblind

end Sys2Proof.Machine
end

section
/-! PROOFS. A whole frame at the receiver (30_encoding.md R90, 41_receiver.md R170 to R180): the run over its bytes, the four of the
header and then those of the payload, to one state in closed form. -/

namespace Sys2Proof.Machine

/-! ### Runs -/

/-- A run's first step. -/
theorem run_succ {s t : State} (h : step s = .next t) (n : Nat) : core.run (n + 1) s = core.run n t := by
  have h : core.step s = .next t := h
  simp only [Host.Core.run, h]

/-- A run that succeeds takes its first step, and the rest of it succeeds from there. -/
theorem run_succ_eq_next {s t : State} {n : Nat} (h : core.run (n + 1) s = .next t) :
    ∃ u, step s = .next u ∧ core.run n u = .next t := by
  have he : core.step s = step s := rfl
  simp only [Host.Core.run, he] at h
  split at h
  · next u hu => exact ⟨u, hu, h⟩
  · cases h
  · cases h

/-- A run whose first part succeeds goes on from where that part ends. -/
theorem run_add (n : Nat) : ∀ (m : Nat) {s t : State}, core.run m s = .next t → core.run (m + n) s = core.run n t
  | 0, s, t, h => by
    cases h
    rw [Nat.zero_add]
  | m + 1, s, t, h => by
    obtain ⟨u, hu, h⟩ := run_succ_eq_next h
    rw [Nat.succ_add, run_succ hu]
    exact run_add n m h

/-- The state with the given bytes waiting and the given steps to come. -/
def State.awaiting (s : State) (waiting : List Byte) (sched : List Action) : State :=
  { s with uartRx := waiting, schedule := sched }

/-- The step of an enabled receiver that takes the byte at the front, where the event that names it is due (R170). -/
theorem step_receive {s : State} (hen : s.rxEn = true) (v : Byte) (waiting bs : List Byte) (rest : List Action) :
    step (s.awaiting (v :: waiting) (rxEvents (v :: bs) ++ rest)) = receiveByte v (s.awaiting waiting (rxEvents bs ++ rest)) :=
  (step_eq_act rfl).trans ((act_rxByte v _).trans
    (exec_rxByte_of_waiting (s := s.awaiting (v :: waiting) (rxEvents bs ++ rest)) hen rfl v))

theorem receiveByte_awaitHdr {s : State} (hst : s.rxState = .awaitHdr) (v : Byte) :
    receiveByte v s = .next (headerByte v s) := by simp only [receiveByte, hst]

theorem receiveByte_awaitPayload {s : State} (hst : s.rxState = .awaitPayload) (v : Byte) :
    receiveByte v s = payloadByte v s := by simp only [receiveByte, hst]

theorem receiveByte_discard {s : State} (hst : s.rxState = .discard) (v : Byte) : receiveByte v s = discardByte s := by
  simp only [receiveByte, hst]

/-! ### The header -/

/-- The state with `n` header bytes taken, `h` holding them. -/
def State.counting (s : State) (h : HdrBuf) (n : BitVec 2) : State := { s with hdrBuf := h, hdrCnt := n }

section Header
variable {s : State} (hen : s.rxEn = true) (hst : s.rxState = .awaitHdr)
include hen hst

/-- A header byte that is not the fourth is put in its place (R172). -/
theorem step_headerByte {h : HdrBuf} {n : BitVec 2} (hn : n.toNat < 3) (v : Byte) (waiting bs : List Byte) (rest : List Action) :
    step ((s.counting h n).awaiting (v :: waiting) (rxEvents (v :: bs) ++ rest)) =
      .next ((s.counting (h.put n v) (n + 1#2)).awaiting waiting (rxEvents bs ++ rest)) := by
  rw [step_receive (s := s.counting h n) hen, receiveByte_awaitHdr (s := (s.counting h n).awaiting waiting _) hst]
  exact congrArg Host.Outcome.next (headerByte_of_lt hn v)

/-- Four bytes taken in AWAIT_HDR are a header, which is then complete (R172, R173). -/
theorem run_header (hcnt : s.hdrCnt = 0#2) (h : HdrBuf) (waiting bs : List Byte) (rest : List Action) :
    core.run 4 (s.awaiting (h.bytes ++ waiting) (rxEvents (h.bytes ++ bs) ++ rest)) =
      .next (headerComplete h.length h.b2 h.b3 ((s.headed h).awaiting waiting (rxEvents bs ++ rest))) := by
  have h0 : s = s.counting s.hdrBuf 0#2 := by rw [← hcnt]; rfl
  have h4 : step ((s.counting ⟨h.b0, h.b1, h.b2, s.hdrBuf.b3⟩ 3#2).awaiting (h.b3 :: waiting) (rxEvents (h.b3 :: bs) ++ rest)) =
      .next (headerComplete h.length h.b2 h.b3 ((s.headed h).awaiting waiting (rxEvents bs ++ rest))) := by
    rw [step_receive (s := s.counting ⟨h.b0, h.b1, h.b2, s.hdrBuf.b3⟩ 3#2) hen,
      receiveByte_awaitHdr (s := (s.counting ⟨h.b0, h.b1, h.b2, s.hdrBuf.b3⟩ 3#2).awaiting waiting _) hst]
    exact congrArg Host.Outcome.next (headerByte_last rfl h.b3)
  calc core.run 4 (s.awaiting (h.bytes ++ waiting) (rxEvents (h.bytes ++ bs) ++ rest))
      = core.run 4 ((s.counting s.hdrBuf 0#2).awaiting (h.b0 :: h.b1 :: h.b2 :: h.b3 :: waiting)
          (rxEvents (h.b0 :: h.b1 :: h.b2 :: h.b3 :: bs) ++ rest)) := by rw [← h0]; rfl
    _ = core.run 3 _ := run_succ (step_headerByte hen hst (by decide) ..) 3
    _ = core.run 2 _ := run_succ (step_headerByte hen hst (by decide) ..) 2
    _ = core.run 1 _ := run_succ (step_headerByte hen hst (by decide) ..) 1
    _ = core.run 0 _ := run_succ h4 0

end Header

/-! ### A frame that is dropped -/

/-- The receiver after the last byte of a frame that it has dropped. -/
def State.drained (s : State) : State := { s with rxRemaining := 0#16, rxState := .awaitHdr }

/-- A byte discarded that is not the last (R180). -/
theorem step_discard {s : State} (hen : s.rxEn = true) (hst : s.rxState = .discard) (hr : 2 ≤ s.rxRemaining.toNat) (v : Byte)
    (waiting bs : List Byte) (rest : List Action) :
    step (s.awaiting (v :: waiting) (rxEvents (v :: bs) ++ rest)) =
      .next (State.awaiting { s with rxRemaining := s.rxRemaining - 1#16 } waiting (rxEvents bs ++ rest)) := by
  have hcount := toNat_sub_one (n := s.rxRemaining) (by omega)
  rw [step_receive hen, receiveByte_discard (s := s.awaiting waiting _) hst,
    discardByte_of_pos (s := s.awaiting waiting _) (show 1 ≤ s.rxRemaining.toNat by omega)]
  have hmore : (s.rxRemaining - 1#16).toNat ≠ 0 := by omega
  simp only [State.awaiting, hmore, if_false]

/-- The last byte discarded (R180). -/
theorem step_discard_last {s : State} (hen : s.rxEn = true) (hst : s.rxState = .discard) (hr : s.rxRemaining.toNat = 1) (v : Byte)
    (waiting bs : List Byte) (rest : List Action) :
    step (s.awaiting (v :: waiting) (rxEvents (v :: bs) ++ rest)) =
      .next (s.drained.awaiting waiting (rxEvents bs ++ rest)) := by
  have hzero : s.rxRemaining - 1#16 = 0#16 := by bv_omega
  rw [step_receive hen, receiveByte_discard (s := s.awaiting waiting _) hst,
    discardByte_of_pos (s := s.awaiting waiting _) (show 1 ≤ s.rxRemaining.toNat by omega)]
  simp only [State.awaiting, hzero]
  rfl

/-- The bytes that remain to be discarded, all of them taken (R180). -/
theorem run_discard (waiting : List Byte) (rest : List Action) (vs : List Byte) : ∀ {s : State}, vs ≠ [] → s.rxEn = true →
    s.rxState = .discard → s.rxRemaining.toNat = vs.length →
    core.run vs.length (s.awaiting (vs ++ waiting) (rxEvents vs ++ rest)) = .next (s.drained.awaiting waiting rest) := by
  induction vs with
  | nil => exact fun h => absurd rfl h
  | cons v vs ih =>
    intro s _ hen hst hr
    cases vs with
    | nil => exact run_succ (step_discard_last hen hst hr v waiting [] rest) 0
    | cons w ws =>
      rw [List.length_cons, List.length_cons] at hr
      have hcount := toNat_sub_one (n := s.rxRemaining) (by omega)
      refine (run_succ (step_discard hen hst (by omega) v (w :: ws ++ waiting) (w :: ws) rest) _).trans ?_
      exact ih (s := { s with rxRemaining := s.rxRemaining - 1#16 }) (by simp) hen hst (by
        change (s.rxRemaining - 1#16).toNat = _
        rw [List.length_cons]
        omega)

/-- The header of a payload's frame (R90). -/
def payloadHeader (chan src : Byte) (payload : List Byte) : HdrBuf :=
  let l := BitVec.ofNat 16 payload.length
  ⟨lowByte l, highByte l, chan, src⟩

theorem frameBytes_eq (chan src : Byte) (payload : List Byte) :
    frameBytes chan src payload = (payloadHeader chan src payload).bytes ++ payload := rfl

theorem payloadHeader_length (chan src : Byte) (payload : List Byte) :
    (payloadHeader chan src payload).length = BitVec.ofNat 16 payload.length := le16_bytes _

/-- The state with the diagnostic record of a dropped frame appended: too long, or else without a buffer (R310, R311). -/
def State.recorded (s : State) (l : Half) : State :=
  { s with diagLog := s.diagLog ++ [⟨if s.cfg.rxBufCap < l.toNat then 2#8 else 1#8, l⟩] }

/-- A header whose frame is dropped leaves the record, and a payload to be discarded if there is one (R174, R177, R179). -/
theorem headerComplete_dropped {s : State} {l : Half}
    (h : s.cfg.rxBufCap < l.toNat ∨ ∀ i < s.cfg.rxPoolN, s.isFree .rx i = false) (chan src : Byte) :
    headerComplete l chan src s = { s.recorded l with
      rxState := if l.toNat = 0 then .awaitHdr else .discard
      rxRemaining := if l.toNat = 0 then s.rxRemaining else l } := by
  by_cases hbig : s.cfg.rxBufCap < l.toNat
  · have hl : l.toNat ≠ 0 := by omega
    simp only [headerComplete_oversized hbig, State.recorded, hl, hbig, if_true, if_false]
    rfl
  · simp only [headerComplete_exhausted (Nat.not_lt.mp hbig) (h.resolve_left hbig), exhausted_eq, State.recorded, hbig, if_false]

theorem State.drained_of_rested {s : State} (hst : s.rxState = .awaitHdr) (hrest : s.rxRemaining = 0#16) : s.drained = s := by
  unfold State.drained
  rw [← hst, ← hrest]

/-- The run over a frame that is dropped: the header stays, and the record is appended (R174, R177, R179, R180). -/
theorem run_dropped {s : State} (hen : s.rxEn = true) (hst : s.rxState = .awaitHdr) (hcnt : s.hdrCnt = 0#2)
    (hrest : s.rxRemaining = 0#16) {h : HdrBuf} {payload : List Byte} (hl : h.length.toNat = payload.length)
    (hdrop : s.cfg.rxBufCap < h.length.toNat ∨ ∀ i < s.cfg.rxPoolN, s.isFree .rx i = false) (later : List Byte)
    (rest : List Action) :
    core.run (4 + payload.length) (s.awaiting (h.bytes ++ (payload ++ later)) (rxEvents (h.bytes ++ payload) ++ rest)) =
      .next (((s.headed h).recorded h.length).drained.awaiting later rest) := by
  have hhead := run_header hen hst hcnt h (payload ++ later) payload rest
  rw [headerComplete_dropped (s := (s.headed h).awaiting _ _) hdrop] at hhead
  rw [run_add _ _ hhead]
  cases payload with
  | nil =>
    have hz : h.length.toNat = 0 := hl
    rw [State.drained_of_rested (s := (s.headed h).recorded h.length) hst hrest, if_pos hz, if_pos hz]
    refine congrArg Host.Outcome.next ?_
    rw [← hst]
    rfl
  | cons v vs =>
    have hz : h.length.toNat ≠ 0 := by rw [hl]; exact Nat.succ_ne_zero _
    rw [if_neg hz, if_neg hz]
    exact run_discard later rest (v :: vs)
      (s := { (s.headed h).recorded h.length with rxState := .discard, rxRemaining := h.length }) (by simp) hen rfl hl

/-- Settles O34: after the header's four bytes the record is written, and the payload's bytes are only counted. -/
theorem droppedFrameIsDrainedByteForByte : Obligations.DroppedFrameIsDrainedByteForByte := by
  intro s chan src payload later l rest hinv hen hst hcnt hl hdrop hu hs
  have hlen : (payloadHeader chan src payload).length = l := by
    rw [payloadHeader_length, ← hl, BitVec.ofNat_toNat, BitVec.setWidth_eq]
  have hrun := run_dropped hen hst hcnt (hinv.rested.1 hst) (h := payloadHeader chan src payload) (payload := payload)
    (by rw [hlen, hl]) (by rw [hlen, hl]; exact hdrop) later rest
  rw [← List.append_assoc, ← frameBytes_eq, ← hu, ← hs] at hrun
  obtain ⟨-, htags, hbytes, hports⟩ := frame_refl s
  refine ⟨_, hrun, rfl, rfl, rfl, rfl, ?_, htags, hbytes, hports, ⟨rfl, rfl, rfl, rfl⟩, ⟨rfl, rfl⟩, rfl⟩
  rw [← hl, ← hlen]
  rfl

end Sys2Proof.Machine
end

section
/-! PROOFS. A whole frame delivered (41_receiver.md R173 to R178): the run over its payload is one update of the buffer that the
header took. -/

namespace Sys2Proof.Machine

/-! ### The payload -/

/-- What the last payload bytes leave of their buffer (R178): the bytes from the offset on, their number in len, and the handoff. -/
def Buffer.filled (j : Nat) (vs : List Byte) (b : Buffer) : Buffer :=
  { b with data := b.data.writes j vs, len := b.len + BitVec.ofNat 16 vs.length, owner := .queue }

theorem Buffer.filled_stored (j : Nat) (v : Byte) (vs : List Byte) (b : Buffer) :
    (b.stored j v).filled (j + 1) vs = b.filled j (v :: vs) := by
  have hlen : b.len + 1#16 + BitVec.ofNat 16 vs.length = b.len + BitVec.ofNat 16 (vs.length + 1) := by
    rw [BitVec.ofNat_add, BitVec.add_assoc, BitVec.add_comm 1#16]
  simp only [Buffer.filled, Buffer.stored, hlen]
  rfl

/-- The state after a payload byte that is not the last (R178). -/
def State.storing (s : State) (i j : Nat) (v : Byte) : State :=
  State.updBuf { s with rxRemaining := s.rxRemaining - 1#16 } .rx i (Buffer.stored j v)

/-- The receiver and the FIFO after the payload's last byte (R178). -/
def State.enqueued (s : State) : State :=
  { s with rxRemaining := 0#16, rxBufIdx := 0#5, rxState := .awaitHdr, q := s.q ++ [s.rxBufIdx] }

section Payload
variable {s : State} {b : Buffer} {i : Nat} (hen : s.rxEn = true) (hst : s.rxState = .awaitPayload) (hi : s.rxBufIdx.toNat = i)
  (hb : s.buf? .rx i = some b) (hroom : b.head.toNat + b.len.toNat < s.cfg.rxBufCap)
include hen hst hi hb hroom

/-- A payload byte that is not the last is stored (R178). -/
theorem step_payload (hr : 2 ≤ s.rxRemaining.toNat) (v : Byte) (waiting bs : List Byte) (rest : List Action) :
    step (s.awaiting (v :: waiting) (rxEvents (v :: bs) ++ rest)) =
      .next ((s.storing i (b.head.toNat + b.len.toNat) v).awaiting waiting (rxEvents bs ++ rest)) := by
  subst hi
  have hmore : s.rxRemaining - 1#16 ≠ 0#16 := by bv_omega
  rw [step_receive hen, receiveByte_awaitPayload (s := s.awaiting waiting _) hst,
    payloadByte_of_room (s := s.awaiting waiting _) hb (show 1 ≤ s.rxRemaining.toNat by omega) hroom]
  exact if_neg hmore

/-- The payload's last byte is stored, and its buffer enqueued (R178). -/
theorem step_payload_last (hr : s.rxRemaining.toNat = 1) (v : Byte) (waiting bs : List Byte) (rest : List Action) :
    step (s.awaiting (v :: waiting) (rxEvents (v :: bs) ++ rest)) =
      .next ((s.enqueued.updBuf .rx i (Buffer.filled (b.head.toNat + b.len.toNat) [v])).awaiting waiting (rxEvents bs ++ rest)) := by
  subst hi
  have hzero : s.rxRemaining - 1#16 = 0#16 := by bv_omega
  rw [step_receive hen, receiveByte_awaitPayload (s := s.awaiting waiting _) hst,
    payloadByte_of_room (s := s.awaiting waiting _) hb (show 1 ≤ s.rxRemaining.toNat by omega) hroom]
  refine (if_pos hzero).trans (congrArg Host.Outcome.next ?_)
  refine (payloadDone_updBuf _ _ _).trans ?_
  simp only [State.awaiting, hzero]
  rfl

end Payload

/-- The payload bytes that remain, all of them taken (R178). -/
theorem run_payload (i : Nat) (waiting : List Byte) (rest : List Action) (vs : List Byte) : ∀ {s : State} {b : Buffer}, vs ≠ [] →
    s.rxEn = true → s.rxState = .awaitPayload → s.rxBufIdx.toNat = i → s.rxRemaining.toNat = vs.length →
    s.cfg.rxBufCap ≤ 65535 → s.buf? .rx i = some b → b.head.toNat + b.len.toNat + vs.length ≤ s.cfg.rxBufCap →
    core.run vs.length (s.awaiting (vs ++ waiting) (rxEvents vs ++ rest)) =
      .next ((s.enqueued.updBuf .rx i (Buffer.filled (b.head.toNat + b.len.toNat) vs)).awaiting waiting rest) := by
  induction vs with
  | nil => exact fun h => absurd rfl h
  | cons v vs ih =>
    intro s b _ hen hst hi hr hcap hb hroom
    rw [List.length_cons] at hr hroom
    cases vs with
    | nil => exact run_succ (step_payload_last hen hst hi hb (by omega) hr v waiting [] rest) 0
    | cons w ws =>
      rw [List.length_cons] at hr hroom
      let j := b.head.toNat + b.len.toNat
      have hcount := toNat_sub_one (n := s.rxRemaining) (by omega)
      have hlen : (b.len + 1#16).toNat = b.len.toNat + 1 := by bv_omega
      have htail : b.head.toNat + (b.len + 1#16).toNat = j + 1 := by omega
      have hb' : (s.storing i j v).buf? .rx i = some (b.stored j v) := by
        rw [State.storing, State.buf?_updBuf_same]
        exact congrArg (Option.map _) hb
      refine (run_succ (step_payload hen hst hi hb (by omega) (by omega) v (w :: ws ++ waiting) (w :: ws) rest) _).trans ?_
      refine (ih (s := s.storing i j v) (by simp) hen hst hi
        (show (s.rxRemaining - 1#16).toNat = _ by rw [List.length_cons]; omega) hcap hb'
        (show b.head.toNat + (b.len + 1#16).toNat + (w :: ws).length ≤ s.cfg.rxBufCap by
          rw [htail, List.length_cons]; omega)).trans ?_
      have hone : (s.storing i j v).enqueued.updBuf .rx i (Buffer.filled (j + 1) (w :: ws)) =
          s.enqueued.updBuf .rx i (Buffer.filled j (v :: w :: ws)) :=
        (State.updBuf_updBuf s.enqueued .rx i (Buffer.stored j v) _).trans
          (congrArg (s.enqueued.updBuf .rx i) (funext (Buffer.filled_stored j v (w :: ws))))
      rw [← hone, ← htail]
      rfl

/-! ### The frame -/

/-- What a frame that is delivered leaves of its buffer (R130, R175, R176, R178): the payload from 0 on, channel and source, and
the handoff to the queue. -/
def Buffer.delivered (chan src : Byte) (payload : List Byte) (b : Buffer) : Buffer :=
  { owner := .queue, head := 0#16, len := BitVec.ofNat 16 payload.length, chan := chan, src := src, data := b.data.writes 0 payload }

theorem Buffer.filled_addressed (o : Owner) (chan src : Byte) (payload : List Byte) (b : Buffer) :
    (b.addressed o chan src).filled 0 payload = b.delivered chan src payload := by
  simp only [Buffer.filled, Buffer.delivered, Buffer.addressed, Buffer.allocated, BitVec.zero_add]

/-- The state after a frame that is delivered to buffer `i`: the header stays, and the buffer is at the FIFO's tail. -/
def State.delivered (s : State) (h : HdrBuf) (i : Nat) (payload : List Byte) : State :=
  State.updBuf { s.headed h with q := s.q ++ [BitVec.ofNat 5 i] } .rx i (Buffer.delivered h.b2 h.b3 payload)

/-- The run over a frame that is delivered (R173, R175, R176, R178). -/
theorem run_delivered {s : State} {i : Nat} {b : Buffer} (hinv : s.Inv) (hen : s.rxEn = true) (hst : s.rxState = .awaitHdr)
    (hcnt : s.hdrCnt = 0#2) {h : HdrBuf} {payload : List Byte} (hl : h.length.toNat = payload.length)
    (hfit : payload.length ≤ s.cfg.rxBufCap) (hb : s.buf? .rx i = some b) (hf : b.owner = .free)
    (hlow : ∀ j < i, s.isFree .rx j = false) (later : List Byte) (rest : List Action) :
    core.run (4 + payload.length) (s.awaiting (h.bytes ++ (payload ++ later)) (rxEvents (h.bytes ++ payload) ++ rest)) =
      .next ((s.delivered h i payload).awaiting later rest) := by
  have hcap : s.cfg.rxBufCap ≤ 65535 := hinv.shaped.cap_le .rx
  have hi : (BitVec.ofNat 5 i).toNat = i := Nat.mod_eq_of_lt (hinv.shaped.lt_32 hb)
  obtain ⟨hremaining, -, hidx, -⟩ := hinv.rested
  have hremaining := hremaining hst
  have hidx := hidx (by rw [hst]; decide)
  have hhead := run_header hen hst hcnt h (payload ++ later) payload rest
  cases payload with
  | nil =>
    have hz : h.length = 0#16 := BitVec.eq_of_toNat_eq hl
    rw [hz, headerComplete_zero (s := (s.headed h).awaiting _ _) hst hb hf hlow] at hhead
    exact hhead
  | cons v vs =>
    have hz : h.length ≠ 0#16 := fun e => by rw [e] at hl; simp at hl
    rw [headerComplete_payload (s := (s.headed h).awaiting _ _) (show h.length.toNat ≤ s.cfg.rxBufCap by omega) hz hb hf hlow]
      at hhead
    rw [run_add _ _ hhead]
    let u := State.updBuf { s.headed h with rxBufIdx := BitVec.ofNat 5 i, rxRemaining := h.length, rxState := .awaitPayload } .rx i
      (Buffer.addressed .receiver h.b2 h.b3)
    have hu : u.buf? .rx i = some (b.addressed .receiver h.b2 h.b3) :=
      (State.buf?_updBuf_same ..).trans (congrArg (Option.map _) hb)
    refine (run_payload i later rest (v :: vs) (s := u) (by simp) hen rfl hi hl hcap hu
      (show 0 + 0 + (v :: vs).length ≤ s.cfg.rxBufCap by omega)).trans ?_
    have hone : u.enqueued.updBuf .rx i (Buffer.filled 0 (v :: vs)) = s.delivered h i (v :: vs) := by
      have henq : u.enqueued =
          State.updBuf { s.headed h with q := s.q ++ [BitVec.ofNat 5 i] } .rx i (Buffer.addressed .receiver h.b2 h.b3) := by
        simp only [State.enqueued, ← hremaining, ← hidx, ← hst]
        rfl
      rw [henq, State.updBuf_updBuf]
      simp only [Buffer.filled_addressed]
      rfl
    rw [← hone]
    rfl

/-- Settles O33: the run ends in one update of the lowest free buffer, and its bytes from 0 on are the payload's. -/
theorem receiverDeliversTheFrame : Obligations.ReceiverDeliversTheFrame := by
  intro s chan src payload later i b rest hinv hen hst hcnt hfit hb hf hlow hu hs
  have hcap : s.cfg.rxBufCap ≤ 65535 := hinv.shaped.cap_le .rx
  have hi : (BitVec.ofNat 5 i).toNat = i := Nat.mod_eq_of_lt (hinv.shaped.lt_32 hb)
  have hl : (BitVec.ofNat 16 payload.length).toNat = payload.length := Nat.mod_eq_of_lt (by omega)
  have hrun := run_delivered hinv hen hst hcnt (h := payloadHeader chan src payload) (payload := payload)
    ((congrArg _ (payloadHeader_length ..)).trans hl) hfit hb hf hlow later rest
  rw [← List.append_assoc, ← frameBytes_eq, ← hu, ← hs] at hrun
  have hbuf : (s.delivered (payloadHeader chan src payload) i payload).buf? .rx i = some (b.delivered chan src payload) :=
    (State.buf?_updBuf_same ..).trans (congrArg (Option.map _) hb)
  refine ⟨_, BitVec.ofNat 5 i, BitVec.ofNat 16 payload.length, hrun, hi, hl, rfl, rfl, hst, rfl,
    onlyTags_of_updBuf hb (Buffer.delivered chan src payload) (fun _ _ => rfl) rfl, fun j hj => ?_, fun p' i' j' hne => ?_,
    fun _ => rfl, ⟨rfl, rfl, rfl, rfl⟩, ⟨rfl, rfl⟩, rfl, rfl, rfl⟩
  · rw [List.getElem?_eq_getElem hj]
    have hread : (b.data.writes 0 payload).read j = some payload[j] := by
      rw [Memory.read_writes payload (State.allBufs_iff.mp hinv.memory.1 i b hb).1, if_pos (by omega), Nat.sub_zero,
        List.getElem?_eq_getElem hj]
    exact State.bufRead?_eq_some.mpr ⟨_, hbuf, show j < s.cfg.rxBufCap by omega, by
      simp only [Buffer.delivered, hread, Option.getD_some]⟩
  · have hother := State.buf?_updBuf s .rx i (Buffer.delivered chan src payload) p' i'
    rw [if_neg hne] at hother
    exact State.bufRead?_congr (s := s)
      (t := (s.delivered (payloadHeader chan src payload) i payload).awaiting later rest) rfl rfl hother j'

end Sys2Proof.Machine
end

section
/-! PROOFS. A whole transmission (42_transmit.md R210 to R214): TX writes the header before the payload, and the run over the
framer's steps sends the buffer's used region. -/

namespace Sys2Proof.Machine

/-! ### The framer's run -/

/-- A framer step with the UART ready, where it is due. -/
theorem step_framer {s : State} {n : Nat} {rest : List Action} (hs : s.schedule = framerSteps (n + 1) ++ rest) :
    step s = framerStep true { s with schedule := framerSteps n ++ rest } :=
  (step_eq_act hs).trans (act_framer true _)

/-- The state after the framer has sent a byte that is not the frame's last (R213). -/
def State.sent (s : State) (v : Byte) (sched : List Action) : State :=
  { s with uartTx := s.uartTx ++ [v], txPos := s.txPos + 1#16, schedule := sched }

/-- The bytes that remain to be sent, all of them sent, and the frame complete (R213, R214). -/
theorem run_framer (rest : List Action) (vs : List Byte) : ∀ {s : State} {b : Buffer}, vs ≠ [] → s.txBusy = true →
    s.buf? .tx s.txIdx.toNat = some b → s.txPos.toNat + vs.length = b.len.toNat →
    (∀ j < vs.length, s.bufRead? .tx s.txIdx.toNat (b.head.toNat + (s.txPos.toNat + j)) = vs[j]?) →
    s.schedule = framerSteps vs.length ++ rest →
    core.run vs.length s = .next (txComplete { s with uartTx := s.uartTx ++ vs, schedule := rest }) := by
  induction vs with
  | nil => exact fun h => absurd rfl h
  | cons v vs ih =>
    intro s b _ hbusy hb hlen hread hs
    rw [List.length_cons] at hlen hs
    have hv : s.bufRead? .tx s.txIdx.toNat (b.head.toNat + s.txPos.toNat) = some v := hread 0 (Nat.succ_pos _)
    have hpos : (s.txPos + 1#16).toNat = s.txPos.toNat + 1 := by bv_omega
    have hstep := (step_framer hs).trans
      (framerStep_of_busy (s := { s with schedule := framerSteps vs.length ++ rest }) hbusy hb hv)
    cases vs with
    | nil =>
      have hend : s.txPos + 1#16 = b.len := BitVec.eq_of_toNat_eq (hpos.trans hlen)
      exact run_succ (hstep.trans (if_pos hend)) 0
    | cons w ws =>
      rw [List.length_cons] at hlen
      have hmore : s.txPos + 1#16 ≠ b.len := fun e => by rw [e] at hpos; omega
      refine (run_succ (hstep.trans (if_neg hmore)) (w :: ws).length).trans ?_
      refine (ih (s := s.sent v (framerSteps (w :: ws).length ++ rest)) (b := b) (by simp) hbusy hb
        (show (s.txPos + 1#16).toNat + (w :: ws).length = b.len.toNat by rw [List.length_cons]; omega)
        (fun j hj => ?_) rfl).trans ?_
      · have hnext := hread (j + 1) (by rw [List.length_cons]; omega)
        rw [List.getElem?_cons_succ] at hnext
        rw [← hnext]
        change s.bufRead? .tx s.txIdx.toNat (b.head.toNat + ((s.txPos + 1#16).toNat + j)) = _
        rw [hpos, Nat.add_assoc s.txPos.toNat, Nat.add_comm 1]
      · simp only [State.sent, List.append_assoc, List.singleton_append]
        rfl

/-! ### The transmission -/

/-- The first step of a transmission: the word of TX of a transmit buffer, on an idle port (R210). -/
theorem step_tx {s : State} {k i : Nat} {x : Port} {sched : List Action} (hi : i < 128) (hx : s.port? k = some x)
    (hstate : x.state = .idle)
    (hsched : s.schedule = .command k (commandWord 0x20#8 .tx i 0#16) :: sched) :
    step s = exec (.tx .tx i) { s with schedule := sched, cmdPort := k } := by
  have hdecode : decodeCommand (commandWord 0x20#8 .tx i 0#16) = .ok (.tx .tx i) :=
    decodeOfEncodeIsTheInstruction (.tx .tx i) (decide_eq_true hi)
  rw [step_eq_act hsched, act_command_of_idle (s := { s with schedule := sched }) hx hstate, hdecode]

theorem frameBytes_length (chan src : Byte) (payload : List Byte) : (frameBytes chan src payload).length = 4 + payload.length :=
  List.length_append

/-- The bytes of a frame, read from the header written before the payload. -/
theorem read_frame {read : Nat → Option Byte} {head : Nat} {payload : List Byte} (hh : 4 ≤ head)
    (hheader : ∀ j < 4, read (head - 4 + j) = (headerBytes (BitVec.ofNat 16 payload.length) 0#8 0#8)[j]?)
    (hpayload : ∀ j < payload.length, read (head + j) = payload[j]?) :
    ∀ j < 4 + payload.length, read (head - 4 + j) = (frameBytes 0#8 0#8 payload)[j]? := by
  intro j hj
  have hbytes : (headerBytes (BitVec.ofNat 16 payload.length) 0#8 0#8).length = 4 := rfl
  by_cases hin : j < 4
  · rw [frameBytes, List.getElem?_append_left (by omega), hheader j hin]
  · rw [frameBytes, List.getElem?_append_right (by omega), hbytes, ← hpayload (j - 4) (by omega)]
    exact congrArg read (by omega)

/-- The framer is about to send `bytes`, the used region of transmit buffer `i`, for port `k`. -/
structure State.Loaded (t : State) (k i : Nat) (bytes : List Byte) : Prop where
  busy : t.txBusy = true
  idx : t.txIdx.toNat = i
  pos : t.txPos = 0#16
  port : t.txPort.toNat = k
  buffer : ∃ c, t.buf? .tx i = some c ∧ c.len.toNat = bytes.length ∧
    ∀ j < bytes.length, t.bufRead? .tx i (c.head.toNat + j) = bytes[j]?
  waits : ∃ x, t.port? k = some x

/-- TX of a buffer with room for the header leaves the frame to the framer, and nothing else that it sees (R211). -/
theorem exec_tx_loads {s : State} {i : Nat} {b : Buffer} {x : Port} {payload : List Byte} (hinv : s.Inv) (hidle : s.txBusy = false)
    (hx : s.port? s.cmdPort = some x) (hb : s.buf? .tx i = some b) (ho : b.owner = .client) (hh : 4 ≤ b.head.toNat)
    (hlen : payload.length = b.len.toNat) (hread : ∀ j < b.len.toNat, s.bufRead? .tx i (b.head.toNat + j) = payload[j]?) :
    ∃ t, exec (.tx .tx i) s = .next t ∧ t.Loaded s.cmdPort i (frameBytes 0#8 0#8 payload) ∧
      SameRegisters { s with txBusy := true, txIdx := t.txIdx, txPos := t.txPos, txPort := t.txPort } t := by
  have hfits : b.head.toNat + b.len.toNat ≤ s.cfg.txBufCap := State.allBufs_iff.mp hinv.bounded.2.1 i b hb
  have hl : b.len = BitVec.ofNat 16 payload.length := by rw [hlen, BitVec.ofNat_toNat, BitVec.setWidth_eq]
  obtain ⟨-, -, haccept⟩ := txAcceptedOnBothRoutes s _ i b _ hinv.shaped hidle hb (.inl ⟨rfl, rfl, State.lt_of_port? hx⟩)
  obtain ⟨t, head, len, idx, port, ht, hhead, hlen', hidx, hport, hregs, htags, hports, hbytes⟩ := haccept ho hh hfits
    (State.allBufs_iff.mp hinv.memory.2 i b hb).1
  have ⟨⟨_, _, ⟨hbusy, htidx, htpos, htport⟩, _⟩, _⟩ := hregs
  obtain ⟨c, hc, htag⟩ := Option.map_eq_some_iff.mp ((htags .tx i).trans (if_pos ⟨rfl, rfl⟩))
  obtain ⟨-, hchead, hclen, -, -⟩ : c.owner = .transmitter ∧ c.head = head ∧ c.len = len ∧ c.chan = b.chan ∧ c.src = b.src := by
    simpa using htag
  have hframe := read_frame (read := t.bufRead? .tx i) (payload := payload) hh
    (fun j hj => by
      rw [hbytes, if_pos ⟨rfl, rfl, by omega, by omega⟩, hhead, Nat.add_sub_cancel_left, ← hl]
      rfl)
    (fun j hj => by
      rw [hbytes, if_neg (by omega)]
      exact hread j (by omega))
  refine ⟨t, ht, ⟨hbusy, by rw [htidx, hidx], htpos, by rw [htport, hport], ⟨c, hc, ?_, ?_⟩,
    ⟨{ x with state := .txWait }, ?_⟩⟩, ?_⟩
  · rw [hclen, frameBytes_length]
    omega
  · rw [hchead, hhead, frameBytes_length]
    exact hframe
  · rw [hports, if_pos rfl, hx]
    rfl
  · rw [htidx, htpos, htport]
    exact hregs

/-- The framer sends what it has been left, and completes (R213, R214). -/
theorem State.Loaded.run {t : State} {k i : Nat} {bytes : List Byte} {rest : List Action} (h : t.Loaded k i bytes)
    (hne : bytes ≠ []) (hs : t.schedule = framerSteps bytes.length ++ rest) :
    core.run bytes.length t = .next (txComplete { t with uartTx := t.uartTx ++ bytes, schedule := rest }) := by
  obtain ⟨hbusy, rfl, hpos, -, ⟨c, hc, hlen, hread⟩, -⟩ := h
  refine run_framer rest bytes hne hbusy hc ?_ (fun j hj => ?_) hs
  · rw [hpos, hlen]
    exact Nat.zero_add _
  · rw [hpos, ← hread j hj]
    exact congrArg _ (congrArg _ (Nat.zero_add j))

/-- The state in which a frame is complete (R214): the buffer is FREE, and the port has its answer. -/
theorem State.Loaded.complete {t : State} {k i : Nat} {bytes : List Byte} (h : t.Loaded k i bytes) :
    SameRegisters { t with txBusy := false, txIdx := 0#5, txPos := 0#16, txPort := 0#8 } (txComplete t) ∧
      (∃ c, (txComplete t).buf? .tx i = some c ∧ c.owner = .free) ∧
      (txComplete t).port? k = some { state := .idle, rspCode := 0x00#8, rspValue := 0#32 } := by
  obtain ⟨-, rfl, -, rfl, ⟨c, hc, -⟩, ⟨x, hx⟩⟩ := h
  obtain ⟨hregs, htags, -, hports⟩ := txComplete_frame hc
  obtain ⟨c', hc', htag⟩ := Option.map_eq_some_iff.mp ((htags _ _).trans (if_pos ⟨rfl, rfl⟩))
  exact ⟨hregs, ⟨c', hc', congrArg Prod.fst htag⟩, by rw [hports, if_pos rfl, hx]; rfl⟩

theorem State.Loaded.withOutput {t : State} {k i : Nat} {bytes : List Byte} (h : t.Loaded k i bytes) (out : List Byte)
    (sched : List Action) : State.Loaded { t with uartTx := out, schedule := sched } k i bytes :=
  ⟨h.busy, h.idx, h.pos, h.port, h.buffer, h.waits⟩

theorem sameReceiver_trans {s t u : State} (h : SameReceiver s t) (h' : SameReceiver t u) : SameReceiver s u := by
  obtain ⟨hen, hst, hcnt, hbuf, hremaining, hidx⟩ := h
  obtain ⟨hen', hst', hcnt', hbuf', hremaining', hidx'⟩ := h'
  exact ⟨hen'.trans hen, hst'.trans hst, hcnt'.trans hcnt, hbuf'.trans hbuf, hremaining'.trans hremaining, hidx'.trans hidx⟩

/-- Neither who moves next nor the port of the command performed enters the invariant. -/
theorem State.Inv.withCommand {s : State} (h : s.Inv) (k : Nat) (sched : List Action) :
    State.Inv { s with schedule := sched, cmdPort := k } :=
  ⟨h.shaped, h.queue, h.receiver, h.framer, h.bounded, h.rested, h.init, h.holds, h.memory, h.written⟩

/-- Settles O24: TX leaves the frame to the framer, and the framer's run sends it and completes. -/
theorem transmissionSendsHeaderAndPayload : Obligations.TransmissionSendsHeaderAndPayload := by
  intro s k i x b payload rest hinv hidle hx hstate hb ho hh hlen hread hs
  obtain ⟨t, ht, hload, ⟨hrecv, hq, -, -, -, ⟨hrx, htx, -⟩, -, -, -, hsched⟩, hfault⟩ :=
    exec_tx_loads (s := { s with schedule := framerSteps (4 + payload.length) ++ rest, cmdPort := k })
      (hinv.withCommand k _) hidle hx hb ho hh hlen hread
  have hstep := (step_tx ((hinv.shaped.lt_32 hb).trans (by decide)) hx hstate hs).trans ht
  have hlength := frameBytes_length 0#8 0#8 payload
  have hrun := hload.run (List.ne_nil_of_length_pos (by omega)) (rest := rest) (by rw [hlength]; exact hsched)
  obtain ⟨⟨⟨hrecv', hq', ⟨hidle', -⟩, -, -, ⟨hrx', htx', -⟩, -, -, -, hsched'⟩, hfault'⟩, hfree, hanswer⟩ :=
    (hload.withOutput (t.uartTx ++ frameBytes 0#8 0#8 payload) rest).complete
  refine ⟨_, ?_, by rw [htx', htx], hidle', hfree, hanswer, sameReceiver_trans hrecv hrecv', by rw [hq', hq], by rw [hrx', hrx],
    ⟨hfault'.1.trans hfault.1, hfault'.2.trans hfault.2⟩, hsched'⟩
  rw [Nat.add_comm 1, run_succ hstep, ← hlength]
  exact hrun

end Sys2Proof.Machine
end
